-- ==== Sys2Proof/Word.lean ====
section
/-! DEFINITION. The word types of the core: bytes, and the 32-bit registers and command words (R9 of 00_scope.md). -/

namespace Sys2Proof

/-- Eight bits, bit 7 the most significant (R9). -/
abbrev Byte := BitVec 8

/-- A 32-bit register or command word (R9, R32). -/
abbrev Word := BitVec 32

end Sys2Proof
end

