-- ==== Sys2Proof/Syntax.lean ====
section
/-! DEFINITION. The sixteen commands of HFM-CMD version 1, one constructor per row of spec/opcode_table.json
(R113 of 30_encoding.md), and the formats of R112. -/

namespace Sys2Proof

/-- A command with its operands A and B, 8-bit unsigned values (R111, R113). -/
inductive Instr where
  /-- no operation (R151) -/
  | nop
  /-- back to the reset state of the registers (R152) -/
  | clear
  /-- read the bit of BUF at offset `a` (R162) -/
  | getbit (a : Byte)
  /-- write the bit of BUF at offset `a` to `b` (R163) -/
  | setbit (a b : Byte)
  /-- clear BUF (R164) -/
  | bufclr
  /-- place index `a` at block position `b` (R167) -/
  | putidx (a b : Byte)
  /-- read the index at block position `a` (R168) -/
  | getidx (a : Byte)
  /-- code width for the table length `a` (R193) -/
  | width (a : Byte)
  /-- block geometry for the code width `a` (R194) -/
  | geom (a : Byte)
  /-- configure the code width `a` (R195) -/
  | setcw (a : Byte)
  /-- count the characters of IN (R211) -/
  | scan
  /-- build the Alphabet from FREQ (R213) -/
  | dedup
  /-- index of the code point `a` in the Alphabet (R215) -/
  | lookup (a : Byte)
  /-- build the prefix tree and its leaf report (R245) -/
  | tree
  /-- encode IN into OUT (R260) -/
  | encode
  /-- decode the file in IN into OUT (R272) -/
  | decode
  deriving DecidableEq, Repr

/-- The three command formats (R112). -/
inductive Format where
  | n
  | a
  | ab
  deriving DecidableEq, Repr

/-- The mnemonics of R113, for the opcode map and the assembler. -/
inductive Mnemonic where
  | nop | clear | getbit | setbit | bufclr | putidx | getidx | width | geom | setcw | scan | dedup | lookup | tree
  | encode | decode
  deriving DecidableEq, Repr

/-- The format of each command (R113). -/
def Mnemonic.format : Mnemonic → Format
  | .nop => .n
  | .clear => .n
  | .getbit => .a
  | .setbit => .ab
  | .bufclr => .n
  | .putidx => .ab
  | .getidx => .a
  | .width => .a
  | .geom => .a
  | .setcw => .a
  | .scan => .n
  | .dedup => .n
  | .lookup => .a
  | .tree => .n
  | .encode => .n
  | .decode => .n

/-- The command with mnemonic `m` and operands `a` and `b`; operands its format lacks are dropped. -/
def Mnemonic.instr (m : Mnemonic) (a b : Byte) : Instr :=
  match m with
  | .nop => .nop
  | .clear => .clear
  | .getbit => .getbit a
  | .setbit => .setbit a b
  | .bufclr => .bufclr
  | .putidx => .putidx a b
  | .getidx => .getidx a
  | .width => .width a
  | .geom => .geom a
  | .setcw => .setcw a
  | .scan => .scan
  | .dedup => .dedup
  | .lookup => .lookup a
  | .tree => .tree
  | .encode => .encode
  | .decode => .decode

/-- The mnemonic of a command. -/
def Instr.mnemonic : Instr → Mnemonic
  | .nop => .nop
  | .clear => .clear
  | .getbit _ => .getbit
  | .setbit _ _ => .setbit
  | .bufclr => .bufclr
  | .putidx _ _ => .putidx
  | .getidx _ => .getidx
  | .width _ => .width
  | .geom _ => .geom
  | .setcw _ => .setcw
  | .scan => .scan
  | .dedup => .dedup
  | .lookup _ => .lookup
  | .tree => .tree
  | .encode => .encode
  | .decode => .decode

/-- The operand A of a command, 0 where its format has none (R112). -/
def Instr.opA : Instr → Byte
  | .nop => 0
  | .clear => 0
  | .getbit a => a
  | .setbit a _ => a
  | .bufclr => 0
  | .putidx a _ => a
  | .getidx a => a
  | .width a => a
  | .geom a => a
  | .setcw a => a
  | .scan => 0
  | .dedup => 0
  | .lookup a => a
  | .tree => 0
  | .encode => 0
  | .decode => 0

/-- The operand B of a command, 0 where its format has none (R112). -/
def Instr.opB : Instr → Byte
  | .nop => 0
  | .clear => 0
  | .getbit _ => 0
  | .setbit _ b => b
  | .bufclr => 0
  | .putidx _ b => b
  | .getidx _ => 0
  | .width _ => 0
  | .geom _ => 0
  | .setcw _ => 0
  | .scan => 0
  | .dedup => 0
  | .lookup _ => 0
  | .tree => 0
  | .encode => 0
  | .decode => 0

end Sys2Proof
end

