-- ==== Sys2Proof/WellFormed.lean ====
section
/-! DEFINITION. The operand ranges that the columns A and B of R113 (30_encoding.md) give each command without reference
to the state. A command outside them still decodes: it aborts with BadOperand (R113, R304). The two ranges that the
configured width narrows further (PUTIDX, GETIDX) are here at their widest: 2^7 indices and 8 positions (R37, R38). -/

namespace Sys2Proof

/-- Every operand lies in the range R113 gives it. Every value of the encoding decodes and runs; an ill-formed command
is one that ends in an error in every state. -/
def Instr.wellFormed : Instr → Bool
  | .nop => true
  | .clear => true
  | .getbit a => a.toNat ≤ 63
  | .setbit a b => a.toNat ≤ 63 && b.toNat ≤ 1
  | .bufclr => true
  | .putidx a b => a.toNat < 128 && b.toNat < 8
  | .getidx a => a.toNat < 8
  | .width a => 1 ≤ a.toNat && a.toNat ≤ 128
  | .geom a => 1 ≤ a.toNat && a.toNat ≤ 7
  | .setcw a => 1 ≤ a.toNat && a.toNat ≤ 7
  | .scan => true
  | .dedup => true
  | .lookup _ => true
  | .tree => true
  | .encode => true
  | .decode => true

end Sys2Proof
end

