-- ==== Sys2Proof/Decode.lean ====
section
/-! DEFINITION. The command word: fields, the opcode map, decoding and encoding (R110 to R116 of 30_encoding.md). -/

namespace Sys2Proof

/-- Why a word is no command (R114, R116); each is IllegalCommand to the host (R302). -/
inductive DecodeError where
  /-- an OPC that R113 does not assign -/
  | unassignedOpcode (opc : Byte)
  /-- a nonzero RSV field -/
  | reservedNotZero (rsv : Byte)
  /-- a nonzero operand field that the format does not use -/
  | operandNotZero (operand : Byte)
  deriving DecidableEq, Repr

/-- Field OPC, bits 7:0 (R111). -/
def fieldOpc (w : Word) : Byte := w.extractLsb' 0 8

/-- Field A, bits 15:8 (R111, R115). -/
def fieldA (w : Word) : Byte := w.extractLsb' 8 8

/-- Field B, bits 23:16 (R111, R115). -/
def fieldB (w : Word) : Byte := w.extractLsb' 16 8

/-- Field RSV, bits 31:24 (R111). -/
def fieldRsv (w : Word) : Byte := w.extractLsb' 24 8

/-- The opcode of each mnemonic (R113). -/
def Mnemonic.opc : Mnemonic → Byte
  | .nop => 0x00#8
  | .clear => 0x01#8
  | .getbit => 0x10#8
  | .setbit => 0x11#8
  | .bufclr => 0x12#8
  | .putidx => 0x13#8
  | .getidx => 0x14#8
  | .width => 0x20#8
  | .geom => 0x21#8
  | .setcw => 0x22#8
  | .scan => 0x30#8
  | .dedup => 0x31#8
  | .lookup => 0x32#8
  | .tree => 0x33#8
  | .encode => 0x40#8
  | .decode => 0x41#8

/-- The mnemonic an OPC selects; every other OPC is reserved (R113, R116). -/
def mnemonicOf (opc : Byte) : Option Mnemonic :=
  match opc.toNat with
  | 0x00 => some .nop
  | 0x01 => some .clear
  | 0x10 => some .getbit
  | 0x11 => some .setbit
  | 0x12 => some .bufclr
  | 0x13 => some .putidx
  | 0x14 => some .getidx
  | 0x20 => some .width
  | 0x21 => some .geom
  | 0x22 => some .setcw
  | 0x30 => some .scan
  | 0x31 => some .dedup
  | 0x32 => some .lookup
  | 0x33 => some .tree
  | 0x40 => some .encode
  | 0x41 => some .decode
  | _ => none

/-- The must-be-zero fields of a format (R112), tested RSV first. -/
def checkZeros (f : Format) (w : Word) : Option DecodeError :=
  if fieldRsv w ≠ 0 then some (.reservedNotZero (fieldRsv w))
  else
    match f with
    | .n => if fieldB w ≠ 0 then some (.operandNotZero (fieldB w))
            else if fieldA w ≠ 0 then some (.operandNotZero (fieldA w))
            else none
    | .a => if fieldB w ≠ 0 then some (.operandNotZero (fieldB w)) else none
    | .ab => none

/-- Decoding (R114), total on every 32-bit word: exactly one command, or the reason there is none. -/
def decode (w : Word) : Except DecodeError Instr :=
  match mnemonicOf (fieldOpc w) with
  | none => .error (.unassignedOpcode (fieldOpc w))
  | some m =>
    match checkZeros m.format w with
    | some e => .error e
    | none => .ok (m.instr (fieldA w) (fieldB w))

/-- The word of a command: RSV, B, A and OPC from bit 31 down (R111, R112). -/
def encode (i : Instr) : Word := 0#8 ++ i.opB ++ i.opA ++ i.mnemonic.opc

/-- The mask of a format (R112). -/
def Format.mask : Format → Word
  | .n => 0xFFFFFFFF#32
  | .a => 0xFFFF00FF#32
  | .ab => 0xFF0000FF#32

/-- The `match` word of a row of R113: the command with every operand field 0. -/
def Mnemonic.pattern (m : Mnemonic) : Word := m.opc.setWidth 32

/-- The rows of R113, in the table's order. -/
def opcodeMap : List Mnemonic :=
  [.nop, .clear, .getbit, .setbit, .bufclr, .putidx, .getidx, .width, .geom, .setcw, .scan, .dedup, .lookup, .tree,
    .encode, .decode]

/-- The row of `m` selects the word `w`: `w & mask(format) = match` (R114). -/
def Mnemonic.selects (m : Mnemonic) (w : Word) : Bool := w &&& m.format.mask == m.pattern

/-- What the decoder reads from the instruction whose bits are `w`, bit 0 the least significant bit of the one command
word; the bits at and above `nbits` are 0. A command is one 32-bit access (R88, R110), so no byte order enters. -/
def decodeTableWord (nbits w : Nat) : Option Instr :=
  match decode (BitVec.ofNat 32 (w % 2 ^ nbits)) with
  | .ok i => some i
  | .error _ => none

end Sys2Proof
end

