-- ==== Sys2Proof/Config.lean ====
section
/-! DEFINITION. What an instance of the core fixes (the parameters of R6 of 00_scope.md) and the free values:
constants with no body, so that nothing can be proved of a value the spec leaves open. -/

namespace Sys2Proof

/-- W7_BPB: bytesPerBlock of the width-7 row (R6, R192). -/
inductive W7Row where
  | eight
  | seven
  deriving DecidableEq, Repr

/-- IDX_ORDER: which bit of an index stands at the lowest offset of its field (R6, R86). -/
inductive IdxOrder where
  | msbFirst
  | lsbFirst
  deriving DecidableEq, Repr

/-- HDR_ENDIAN: the byte order of the four header integers (R6, R84). -/
inductive HdrEndian where
  | le
  | be
  deriving DecidableEq, Repr

/-- ODL_FN (R6, R265): the formula of R265, or any other function, told apart by a number.
DESIGN CHOICE (log entry 4): an instance names its function by plain data. -/
inductive OdlFn where
  | remainderFormula
  | other (id : Nat)
  deriving DecidableEq, Repr

/-- TOTOUT_FN (R6, R266): the default, the two other candidates of 90_conflicts.md C5, or any other function.
DESIGN CHOICE (log entry 4). -/
inductive TotoutFn where
  | tlenPlusOdl
  | odlAlone
  | headerTlenOdl
  | other (id : Nat)
  deriving DecidableEq, Repr

/-- The OPEN parameters of R6 and HFM_BASE of R32. They are fixed for an instance; no command changes them (R84).
Log entry 3: State carries them, so that every claim is about every instance (R7). -/
structure Params where
  w7Bpb : W7Row
  idxOrder : IdxOrder
  hdrEndian : HdrEndian
  odlFn : OdlFn
  totoutFn : TotoutFn
  hfmBase : Nat
  deriving DecidableEq, Repr

/-- The default values of R6. DESIGN CHOICE (log entry 3): HFM_BASE, which the platform chooses, is 0. -/
def Params.default : Params where
  w7Bpb := .eight
  idxOrder := .msbFirst
  hdrEndian := .le
  odlFn := .remainderFormula
  totoutFn := .tlenPlusOdl
  hfmBase := 0

/-- One NODE entry (R55): a leaf has `isLeaf = true`, an internal node has `isLeaf = false`. -/
structure Node where
  freq : Word
  left : Byte
  right : Byte
  sym : Byte
  isLeaf : Bool
  deriving DecidableEq, Repr, Inhabited

/-- MAX_INPUT = 2^31 − 1 (R6). -/
abbrev Config.maxInput : Nat := 2147483647

/-- What an unlisted position of IN or OUT reads as. DESIGN CHOICE (log entry 9): 0x00. -/
abbrev Config.unlistedByte : Byte := 0#8

/-- The value of an ODL_FN that is not the default: `id`, codeWidth, bytesPerBlock, inputLength (R6; log entry 4).
DESIGN CHOICE (log entry 4): it may be any 32-bit word. R6 gives the function no range, while R12 and R119 have ENCODE
write only values below 2^31, so such an instance may write an ODL that the file's int32 reading takes as negative. -/
opaque Config.odlOther : Nat → Nat → Nat → Nat → Word

/-- The value of a TOTOUT_FN that is no named candidate: `id`, tableLength, outputDataLength (R6): any 32-bit word.
DESIGN CHOICE (log entry 4). -/
opaque Config.totoutOther : Nat → Nat → Nat → Word

/-- The bytes the host's sink holds after an IoFailure of ENCODE or DECODE, by draw number: any bytes, any length
(R90; free value, log entry 6). -/
opaque Config.sinkAfterFailure : Nat → List Byte

/-- What the host reads at a position of OUT that is not part of the output, by draw number
(R93, R340; free value, log entry 8). -/
opaque Config.outOutside : Nat → Byte

/-- FREQ after a power-on reset, by draw number and entry (R61, U16; free value, log entry 5). -/
opaque Config.powerOnFreq : Nat → Nat → Word

/-- ALPHA after a power-on reset, by draw number and entry (R61, U16; free value, log entry 5). -/
opaque Config.powerOnAlpha : Nat → Nat → Byte

/-- NODE after a power-on reset, by draw number and entry (R61, U16; free value, log entry 5). -/
opaque Config.powerOnNode : Nat → Nat → Node

/-- LEAF after a power-on reset, by draw number and entry (R61, U16; free value, log entry 5). -/
opaque Config.powerOnLeaf : Nat → Nat → Byte

end Sys2Proof
end

