-- ==== Sys2Proof/Machine/State.lean ====
section
/-! DEFINITION. The state of the core as plain data (10_state.md), the host's side of it (20_memory.md,
70_reset_and_hazards.md R340), the reasons a step stops, and the state after power-on reset. -/

namespace Sys2Proof.Machine

/-- The nine STATUS bits of R34, bit 0 first. DESIGN CHOICE (log entry 15): one Bool per bit, since no rule writes the
word whole and bits 31:9 read 0; the host reads the word of `Status.word`. -/
structure Status where
  busy : Bool
  done : Bool
  err : Bool
  sticky : Bool
  freqValid : Bool
  alphaValid : Bool
  cfgValid : Bool
  treeValid : Bool
  outValid : Bool
  deriving DecidableEq, Repr

/-- A byte memory: (position, byte) pairs, positions strictly rising, no entry equal to what an unlisted position
reads as. -/
abbrev Memory := List Host.Cell

/-- The positions rise strictly and lie above `lo`, and no entry is the unlisted byte. -/
def Memory.wfFrom : Nat → Memory → Bool
  | _, [] => true
  | lo, (a, b) :: m => decide (lo ≤ a) && (b != Config.unlistedByte) && Memory.wfFrom (a + 1) m

/-- The canonical form of a memory holds. -/
def Memory.wf (m : Memory) : Bool := Memory.wfFrom 0 m

/-- The width of a host access to the window (R88). -/
inductive AccessWidth where
  | byte
  | half
  | word
  deriving DecidableEq, Repr

/-- One action of the host (R340). Addresses are the platform's: the window starts at HFM_BASE (R32). -/
inductive HostAction where
  /-- read the window at an address -/
  | readWindow (width : AccessWidth) (addr : Nat)
  /-- write the window at an address: CMD issues a command, SRCLEN is set, anything else is ignored (R32, R51) -/
  | writeWindow (width : AccessWidth) (addr : Nat) (value : Word)
  /-- write one byte of IN -/
  | writeIn (pos : Word) (value : Byte)
  /-- read one byte of OUT -/
  | readOut (pos : Word)
  /-- choose the outcomes of the coming I/O events, true for a failure (R90) -/
  | chooseIo (failures : List Bool)
  /-- power the core on again (R330) -/
  | powerOnReset
  deriving DecidableEq, Repr

/-- The state of the core and of what the host owns. -/
structure State where
  /-- STATUS (R34) -/
  status : Status
  /-- ERRCODE (R35) -/
  errcode : BitVec 8
  /-- RESULT (R36) -/
  result : Word
  /-- CW (R37) -/
  cw : BitVec 3
  /-- CPB (R38) -/
  cpb : BitVec 4
  /-- BPB (R39) -/
  bpb : BitVec 4
  /-- SRCLEN (R40) -/
  srclen : Word
  /-- INLEN (R41) -/
  inlen : Word
  /-- TLEN (R42) -/
  tlen : BitVec 8
  /-- ODL (R43) -/
  odl : Word
  /-- TOTOUT (R44) -/
  totout : Word
  /-- LEAFCOUNT (R45) -/
  leafcount : BitVec 8
  /-- ROOT (R46) -/
  root : BitVec 8
  /-- NCOUNT (R47) -/
  ncount : BitVec 9
  /-- EMITTED (R48) -/
  emitted : Word
  /-- OUTLEN (R49) -/
  outlen : Word
  /-- BUF, the block buffer (R52) -/
  buf : Vector Byte 8
  /-- FREQ, the frequency table (R53) -/
  freq : Vector Word 128
  /-- ALPHA, the Alphabet (R54) -/
  alpha : Vector Byte 128
  /-- NODE, the prefix-tree store (R55) -/
  node : Vector Node 255
  /-- LEAF, the leaf report (R56) -/
  leaf : Vector Byte 128
  /-- IN, the host's byte source (R81) -/
  inMem : Memory
  /-- OUT, the host's byte sink (R82) -/
  outMem : Memory
  /-- the parameters of this instance (R6; log entry 3) -/
  params : Params
  /-- the host's choices for the coming I/O events, true for a failure; an event past the list succeeds
  (R90; log entry 2) -/
  ioOutcomes : List Bool
  /-- the host's coming actions, the next one first (R339, R340; log entry 1) -/
  hostActions : List HostAction
  /-- the value the host's last read returned (R340; the model's own field, log entry 13) -/
  readData : Word
  /-- how many free values were drawn so far (the model's own field, log entry 6) -/
  draws : Nat
  deriving DecidableEq, Repr

/-- Reasons a step stops in a fault. -/
inductive Fault where
  /-- The host accessed an address outside the 4096 bytes of the window (R80). Raised by the host's window accesses
  only; no command raises it. Safe: such an access does not reach the core (log entry 12). -/
  | outsideWindow
  deriving DecidableEq, Repr

/-- Reasons a step is refused. -/
inductive Refusal where
  /-- A command whose meaning is not written. No arm of exec answers it. Safe. -/
  | notModelled (mnemonic : String)
  /-- The host accessed the window with a narrow or misaligned access, which R88 tells a model to refuse (U19).
  Raised by the host's window accesses only. Safe. -/
  | narrowOrMisaligned
  /-- The host wrote IN or SRCLEN or read OUT while BUSY = 1 (R94, U21, U22). Raised by the host's accesses only; since
  a command is one step, no run reaches it. Safe (log entry 11). -/
  | hostWhileBusy
  deriving DecidableEq, Repr

/-- STATUS = 0x000 (R61). -/
def Status.reset : Status where
  busy := false
  done := false
  err := false
  sticky := false
  freqValid := false
  alphaValid := false
  cfgValid := false
  treeValid := false
  outValid := false

/-- The state right after power-on reset (R61, R330), for an instance with the default parameters of R6.
DESIGN CHOICE (log entry 5): FREQ, ALPHA, NODE and LEAF, unspecified there, hold zeros. DESIGN CHOICE (log entry 9): IN
and OUT, the host's memories, list nothing. The host has no action pending and fails no I/O event (log entries 1, 2). -/
def State.reset : State where
  status := Status.reset
  errcode := 0
  result := 0
  cw := 0
  cpb := 0
  bpb := 0
  srclen := 0
  inlen := 0
  tlen := 0
  odl := 0
  totout := 0
  leafcount := 0
  root := 0
  ncount := 0
  emitted := 0
  outlen := 0
  buf := Vector.replicate 8 0
  freq := Vector.replicate 128 0
  alpha := Vector.replicate 128 0
  node := Vector.replicate 255 { freq := 0, left := 0, right := 0, sym := 0, isLeaf := false }
  leaf := Vector.replicate 128 0
  inMem := []
  outMem := []
  params := Params.default
  ioOutcomes := []
  hostActions := []
  readData := 0
  draws := 0

end Sys2Proof.Machine
end

