-- ==== Sys2Proof/Machine/Flags.lean ====
section
/-! DEFINITION. The STATUS bits: the word the host reads (R34 of 10_state.md) and the three ways commands change them
outside the epilogue: clearing valid bits, setting one, and the epilogue's own writes (R150 of 40_system.md). -/

namespace Sys2Proof.Machine

/-- A flag as bit `k` of a word. -/
def bitAt (k : Nat) (b : Bool) : Word := if b then 1#32 <<< k else 0#32

/-- The STATUS word: BUSY is bit 0, OUT_VALID bit 8, bits 31:9 read 0 (R34). -/
def Status.word (st : Status) : Word :=
  bitAt 0 st.busy ||| bitAt 1 st.done ||| bitAt 2 st.err ||| bitAt 3 st.sticky ||| bitAt 4 st.freqValid |||
    bitAt 5 st.alphaValid ||| bitAt 6 st.cfgValid ||| bitAt 7 st.treeValid ||| bitAt 8 st.outValid

/-- The prologue's write: BUSY ← 1 (R150). -/
def Status.start (st : Status) : Status := { st with busy := true }

/-- The epilogue's writes for a code: ERR ← (code ≠ 0), STICKY ← STICKY or ERR, DONE ← 1, BUSY ← 0 (R150). -/
def Status.finish (st : Status) (code : BitVec 8) : Status :=
  { st with err := code != 0, sticky := st.sticky || code != 0, done := true, busy := false }

/-- CLEAR's writes: every valid bit and STICKY to 0 (R152). -/
def Status.cleared (st : Status) : Status :=
  { st with freqValid := false, alphaValid := false, cfgValid := false, treeValid := false, outValid := false,
            sticky := false }

/-- What SCAN clears before it counts: FREQ_VALID, ALPHA_VALID, TREE_VALID (R211). -/
def Status.scanStart (st : Status) : Status :=
  { st with freqValid := false, alphaValid := false, treeValid := false }

/-- What DEDUP clears before it builds: ALPHA_VALID, TREE_VALID (R213). -/
def Status.dedupStart (st : Status) : Status := { st with alphaValid := false, treeValid := false }

/-- What DECODE clears first: every valid bit (R272). -/
def Status.decodeStart (st : Status) : Status :=
  { st with outValid := false, freqValid := false, alphaValid := false, cfgValid := false, treeValid := false }

end Sys2Proof.Machine
end

