-- ==== Sys2Proof/Machine/Memory.lean ====
section
/-! DEFINITION. The byte memories IN and OUT (R80 to R82 of 20_memory.md): reads and writes in the canonical form. -/

namespace Sys2Proof.Machine

/-- The byte at a position; an unlisted position reads as `Config.unlistedByte` (log entry 9). -/
def Memory.read : Memory → Nat → Byte
  | [], _ => Config.unlistedByte
  | (a, b) :: m, pos => if a = pos then b else Memory.read m pos

/-- Write one byte, keeping the canonical form: writing the unlisted byte removes the entry. -/
def Memory.write : Memory → Nat → Byte → Memory
  | [], pos, v => if v = Config.unlistedByte then [] else [(pos, v)]
  | (a, b) :: m, pos, v =>
    if pos < a then (if v = Config.unlistedByte then (a, b) :: m else (pos, v) :: (a, b) :: m)
    else if pos = a then (if v = Config.unlistedByte then m else (pos, v) :: m)
    else (a, b) :: Memory.write m pos v

/-- Write bytes at consecutive positions from `pos`. -/
def Memory.writeList : Memory → Nat → List Byte → Memory
  | m, _, [] => m
  | m, pos, v :: vs => Memory.writeList (Memory.write m pos v) (pos + 1) vs

/-- The `n` bytes at positions `pos`, `pos + 1`, … -/
def Memory.readList (m : Memory) (pos n : Nat) : List Byte := (List.range n).map fun k => Memory.read m (pos + k)

/-- The memory that holds exactly the bytes of a list, from position 0. -/
def Memory.ofBytes (bytes : List Byte) : Memory := Memory.writeList [] 0 bytes

end Sys2Proof.Machine
end

