-- ==== Sys2Proof/Machine/Operands.lean ====
section
/-! DEFINITION. Operands and tables: the range tests of the operands A and B (R304 of 60_exceptions.md), the code-width
range table (R190) and the block geometry (R191 of 42_geometry.md). -/

namespace Sys2Proof.Machine

/-- A bit offset of BUF: 0..63 (R162, R163). -/
def isBitOffset (a : Byte) : Bool := a.toNat ≤ 63

/-- A bit value: 0 or 1 (R163). -/
def isBitValue (b : Byte) : Bool := b.toNat ≤ 1

/-- A table length: 1..128 (R193). -/
def isTableLength (a : Byte) : Bool := 1 ≤ a.toNat && a.toNat ≤ 128

/-- A code width: 1..7 (R194, R195). -/
def isCodeWidth (a : Byte) : Bool := 1 ≤ a.toNat && a.toNat ≤ 7

/-- `selectWidth` (R190): the first bound of the range table that `n` is below gives the width; 128 gives 7. -/
def selectWidth (n : Nat) : Nat :=
  if n < 2 then 1
  else if n < 4 then 2
  else if n < 8 then 3
  else if n < 16 then 4
  else if n < 32 then 5
  else if n < 64 then 6
  else 7

/-- The bytesPerBlock of the width-7 row (R191, R192). -/
def w7Bytes : W7Row → Nat
  | .eight => 8
  | .seven => 7

/-- `geometry` (R191): (charsPerBlock, bytesPerBlock) of a code width 1..7. No rule asks for another width; the last
row is out of the table (log entry 14). -/
def geometry (p : Params) (w : Nat) : Nat × Nat :=
  match w with
  | 1 => (8, 1)
  | 2 => (4, 1)
  | 3 => (8, 3)
  | 4 => (2, 1)
  | 5 => (8, 5)
  | 6 => (4, 3)
  | 7 => (8, w7Bytes p.w7Bpb)
  | _ => (0, 0)

end Sys2Proof.Machine
end

