-- ==== Sys2Proof/Machine/Ops.lean ====
section
/-! DEFINITION. The operations the commands share: how a body ends, the I/O events, the command cycle with the recording
of an error (R150, R305), and the named writes to registers and memories. -/

namespace Sys2Proof.Machine

/-- The error kinds of R301. -/
inductive ErrKind where
  | nonAsciiInput
  | treeBuildError
  | noGainAbort
  | characterNotInAlphabet
  | corruptIndex
  | ioFailure
  | lengthMismatch
  | corruptHeader
  | emptyInput
  | inputTooLong
  | illegalCommand
  | badOperand
  | stateError
  deriving DecidableEq, Repr

/-- The numeric codes of R301. -/
def ErrKind.code : ErrKind → BitVec 8
  | .nonAsciiInput => 0x01#8
  | .treeBuildError => 0x02#8
  | .noGainAbort => 0x03#8
  | .characterNotInAlphabet => 0x04#8
  | .corruptIndex => 0x05#8
  | .ioFailure => 0x06#8
  | .lengthMismatch => 0x07#8
  | .corruptHeader => 0x08#8
  | .emptyInput => 0x09#8
  | .inputTooLong => 0x0A#8
  | .illegalCommand => 0x10#8
  | .badOperand => 0x11#8
  | .stateError => 0x12#8

/-- How a part of a command's body ends: with a value, or with `raise Err(code)`. Both carry the state as the part left
it: errors are precise and nothing is rolled back (R300, R305). -/
inductive Res (α : Type) where
  | ok (a : α) (s : State)
  | raise (e : ErrKind) (s : State)
  deriving Repr

/-- Go on with the rest of the body; after a raise nothing more runs (R305). -/
def Res.andThen {α β : Type} (r : Res α) (f : α → State → Res β) : Res β :=
  match r with
  | .ok a s => f a s
  | .raise e s => .raise e s

/-- The state a part of a body ends in, whether it goes on or raises. -/
def Res.state {α : Type} : Res α → State
  | .ok _ s => s
  | .raise _ s => s

/-! ### The command cycle (R150) and the recording of an error (R305) -/

/-- The prologue: BUSY ← 1. -/
def prologue (s : State) : State := { s with status := s.status.start }

/-- The epilogue for a code (R150): ERRCODE, ERR, STICKY, DONE and BUSY, and nothing else. -/
def State.finish (s : State) (code : BitVec 8) : State := { s with errcode := code, status := s.status.finish code }

/-- Taking the end of a body: success records code 0, a raise records its code (R150, R305). The sequencer is then
idle and takes the next command normally, so there is no return from an error (R317). -/
def epilogue (r : Res Unit) : State :=
  match r with
  | .ok _ s => s.finish 0
  | .raise e s => s.finish e.code

/-- One command: prologue, body, epilogue, as one atomic step (R150). -/
def runCommand (body : State → Res Unit) (s : State) : Host.Outcome State Fault Refusal :=
  .next (epilogue (body (prologue s)))

/-- The body of a word that is no command (R114, R302). -/
def bodyIllegal (s : State) : Res Unit := .raise .illegalCommand s

/-! ### I/O events (R90) -/

/-- One I/O event: whether the host lets it fail, and the state with that choice used up. An event past the list of
choices succeeds (log entry 2). -/
def takeIo (s : State) : Bool × State :=
  match s.ioOutcomes with
  | [] => (false, s)
  | failed :: rest => (failed, { s with ioOutcomes := rest })

/-- `MemRead(IN, pos, 1)` (R13, R81): one event; a failed read yields no byte (R90). -/
def readIn (pos : Nat) (s : State) : Res Byte :=
  match takeIo s with
  | (true, s') => .raise .ioFailure s'
  | (false, s') => .ok (Memory.read s'.inMem pos) s'

/-- Append one byte to OUT at position OUTLEN (R13, R82): one event; a failed write appends nothing. -/
def outByte (b : Byte) (s : State) : Res Unit :=
  match takeIo s with
  | (true, s') => .raise .ioFailure s'
  | (false, s') =>
    .ok () { s' with outMem := Memory.write s'.outMem s'.outlen.toNat b, outlen := s'.outlen + 1 }

/-- `OutAppend` (R13): the bytes one event each, in order. -/
def outAppend : List Byte → State → Res Unit
  | [], s => .ok () s
  | b :: bs, s => (outByte b s).andThen fun _ s' => outAppend bs s'

/-- The one close event of ENCODE and DECODE (R270, R278): on success of the rest it may fail with IoFailure; on an
error exit it happens too and its outcome does not change the error (log entry 10). -/
def closeSink (r : Res Unit) : Res Unit :=
  match r with
  | .ok _ s =>
    match takeIo s with
    | (true, s') => .raise .ioFailure s'
    | (false, s') => .ok () s'
  | .raise e s => .raise e (takeIo s).2

/-- After an IoFailure of ENCODE or DECODE the host's sink holds any bytes (R90, U2): a free value, drawn anew
(log entry 6). Every other end leaves OUT as written (R271, R279). -/
def spoilSink (r : Res Unit) : Res Unit :=
  match r with
  | .raise .ioFailure s =>
    .raise .ioFailure { s with outMem := Memory.ofBytes (Config.sinkAfterFailure s.draws), draws := s.draws + 1 }
  | r => r

/-! ### Named writes -/

/-- RESULT ← v (R36). -/
def State.setResult (s : State) (v : Word) : State := { s with result := v }

/-- BUF ← b. -/
def State.setBuf (s : State) (b : Vector Byte 8) : State := { s with buf := b }

/-- STATUS ← st. -/
def State.setStatus (s : State) (st : Status) : State := { s with status := st }

/-- CW, CPB and BPB are written only together, with CFG_VALID ← 1 (R37 to R39, R195). -/
def State.configure (s : State) (w : Nat) : State :=
  { s with
    cw := BitVec.ofNat 3 w
    cpb := BitVec.ofNat 4 (geometry s.params w).1
    bpb := BitVec.ofNat 4 (geometry s.params w).2
    status := { s.status with cfgValid := true } }

/-- A fresh sink: OUTLEN ← 0, EMITTED ← 0, OUT_VALID ← 0 (R93, R260). -/
def State.freshSink (s : State) : State :=
  { s with outlen := 0, emitted := 0, status := { s.status with outValid := false } }

/-- EMITTED ← EMITTED + n (R48). -/
def State.addEmitted (s : State) (n : Nat) : State := { s with emitted := s.emitted + BitVec.ofNat 32 n }

/-- FREQ[c] ← FREQ[c] + 1 (R211). -/
def bumpFreq (f : Vector Word 128) (c : Nat) : Vector Word 128 := f.setIfInBounds c (f[c]?.getD 0 + 1)

/-- Write the entries of a list into a memory from entry `k` on. Entries past its end reach nothing. -/
def writeFrom {α : Type} {n : Nat} : Vector α n → Nat → List α → Vector α n
  | v, _, [] => v
  | v, k, x :: xs => writeFrom (v.setIfInBounds k x) (k + 1) xs

/-- The Alphabet: ALPHA[0..TLEN) (R54). -/
def State.alphabet (s : State) : List Byte := s.alpha.toList.take s.tlen.toNat

end Sys2Proof.Machine
end

