-- ==== Sys2Proof/Machine/Alphabet.lean ====
section
/-! DEFINITION. The frequency scanner SCAN, the symbol deduplicator DEDUP and the index lookup LOOKUP
(43_alphabet.md). -/

namespace Sys2Proof.Machine

/-- The counting loop of SCAN (R211): `n` more bytes of IN from position `i`. At one position a failed read comes
before the range test (R306). -/
def scanLoop : Nat → Nat → State → Res Unit
  | 0, _, s => .ok () s
  | n + 1, i, s =>
    (readIn i s).andThen fun b s1 =>
      if 127 < b.toNat then .raise .nonAsciiInput s1
      else scanLoop n (i + 1) { s1 with freq := bumpFreq s1.freq b.toNat }

/-- SCAN (R211). DEDUCED (log entry 7): its IoFailure leaves OUT and OUT_VALID alone. -/
def bodyScan (s : State) : Res Unit :=
  if Config.maxInput < s.srclen.toNat then .raise .inputTooLong s
  else
    (scanLoop s.srclen.toNat 0 { s with status := s.status.scanStart, freq := Vector.replicate 128 0 }).andThen
      fun _ s1 => .ok () { s1 with inlen := s1.srclen, status := { s1.status with freqValid := true } }

/-- `dedup` (R212): the code points with a nonzero count, ascending. -/
def dedupList (f : Vector Word 128) : List Byte :=
  ((List.range 128).filter fun c => f[c]?.getD 0 != 0).map fun c => BitVec.ofNat 8 c

/-- DEDUP (R213). -/
def bodyDedup (s : State) : Res Unit :=
  if !s.status.freqValid then .raise .stateError s
  else
    let symbols := dedupList s.freq
    let s1 := { s with status := s.status.dedupStart, alpha := writeFrom s.alpha 0 symbols }
    if symbols.length = 0 then .raise .emptyInput s1
    else .ok () { s1 with tlen := BitVec.ofNat 8 symbols.length, status := { s1.status with alphaValid := true } }

/-- `lookup` (R214): the smallest position of the Alphabet that holds `c`. -/
def lookupIndex (alphabet : List Byte) (c : Byte) : Option Nat := alphabet.findIdx? (fun x => x == c)

/-- LOOKUP (R215). -/
def bodyLookup (a : Byte) (s : State) : Res Unit :=
  if !s.status.alphaValid then .raise .stateError s
  else
    match lookupIndex s.alphabet a with
    | none => .raise .characterNotInAlphabet s
    | some k => .ok () (s.setResult (BitVec.ofNat 32 k))

/-- SCAN (R211). -/
def execScan (s : State) : Host.Outcome State Fault Refusal := runCommand bodyScan s

/-- DEDUP (R213). -/
def execDedup (s : State) : Host.Outcome State Fault Refusal := runCommand bodyDedup s

/-- LOOKUP (R215). -/
def execLookup (a : Byte) (s : State) : Host.Outcome State Fault Refusal := runCommand (bodyLookup a) s

end Sys2Proof.Machine
end

