-- ==== Sys2Proof/Machine/BitPacker.lean ====
section
/-! DEFINITION. BitPacker and the fixed-width index encoder (41_bitpacker.md): the primitives on a block buffer, and
GETBIT, SETBIT, BUFCLR, PUTIDX and GETIDX. -/

namespace Sys2Proof.Machine

/-- `getBit` (R160): bit `7 − (i mod 8)` of byte `i div 8`, bit offset 0 being the most significant bit of byte 0 (R10).
An offset past the buffer reaches nothing and reads 0; no rule reads one (log entry 14). -/
def getBit (buf : Vector Byte 8) (i : Nat) : Bool := (buf[i / 8]?.getD 0).getLsbD (7 - i % 8)

/-- `setBit` (R161): the mask of the bit, cleared from the byte and set again if the value is 1. An offset past the
buffer reaches nothing. -/
def setBit (buf : Vector Byte 8) (i : Nat) (v : Bool) : Vector Byte 8 :=
  let m := 1#8 <<< (7 - i % 8)
  buf.setIfInBounds (i / 8) ((buf[i / 8]?.getD 0 &&& ~~~m) ||| if v then m else 0#8)

/-- The weight of the bit at offset `j` of a `w`-bit index field (R86): IDX_ORDER decides. -/
def fieldWeight (o : IdxOrder) (w j : Nat) : Nat :=
  match o with
  | .msbFirst => w - 1 - j
  | .lsbFirst => j

/-- `putIndex` (R165): each of the `w` bits of `v` at its offset `p × w + j`. -/
def putIndex (o : IdxOrder) (v p w : Nat) (buf : Vector Byte 8) : Vector Byte 8 :=
  (List.range w).foldl (fun b j => setBit b (p * w + j) (v.testBit (fieldWeight o w j))) buf

/-- `getIndex` (R166): the `w` bits at offsets `p × w` … as a number. -/
def getIndex (o : IdxOrder) (p w : Nat) (buf : Vector Byte 8) : Nat :=
  (List.range w).foldl (fun v j => v ||| ((getBit buf (p * w + j)).toNat <<< fieldWeight o w j)) 0

/-- GETBIT (R162). -/
def bodyGetbit (a : Byte) (s : State) : Res Unit :=
  if !isBitOffset a then .raise .badOperand s
  else .ok () (s.setResult (bitAt 0 (getBit s.buf a.toNat)))

/-- SETBIT (R163). -/
def bodySetbit (a b : Byte) (s : State) : Res Unit :=
  if !isBitOffset a || !isBitValue b then .raise .badOperand s
  else .ok () (s.setBuf (setBit s.buf a.toNat (b.toNat == 1)))

/-- BUFCLR (R164). -/
def bodyBufclr (s : State) : Res Unit := .ok () (s.setBuf (Vector.replicate 8 0))

/-- PUTIDX (R167): the index below 2^CW, the position below CPB. -/
def bodyPutidx (a b : Byte) (s : State) : Res Unit :=
  if !s.status.cfgValid then .raise .stateError s
  else if 2 ^ s.cw.toNat ≤ a.toNat ∨ s.cpb.toNat ≤ b.toNat then .raise .badOperand s
  else .ok () (s.setBuf (putIndex s.params.idxOrder a.toNat b.toNat s.cw.toNat s.buf))

/-- GETIDX (R168). -/
def bodyGetidx (a : Byte) (s : State) : Res Unit :=
  if !s.status.cfgValid then .raise .stateError s
  else if s.cpb.toNat ≤ a.toNat then .raise .badOperand s
  else .ok () (s.setResult (BitVec.ofNat 32 (getIndex s.params.idxOrder a.toNat s.cw.toNat s.buf)))

/-- GETBIT (R162). -/
def execGetbit (a : Byte) (s : State) : Host.Outcome State Fault Refusal := runCommand (bodyGetbit a) s

/-- SETBIT (R163). -/
def execSetbit (a b : Byte) (s : State) : Host.Outcome State Fault Refusal := runCommand (bodySetbit a b) s

/-- BUFCLR (R164). -/
def execBufclr (s : State) : Host.Outcome State Fault Refusal := runCommand bodyBufclr s

/-- PUTIDX (R167). -/
def execPutidx (a b : Byte) (s : State) : Host.Outcome State Fault Refusal := runCommand (bodyPutidx a b) s

/-- GETIDX (R168). -/
def execGetidx (a : Byte) (s : State) : Host.Outcome State Fault Refusal := runCommand (bodyGetidx a) s

end Sys2Proof.Machine
end

