-- ==== Sys2Proof/Machine/Huffman.lean ====
section
/-! DEFINITION. The prefix-tree constructor and TREE (44_huffman.md). The nodes a build writes are computed as the list
NODE[0], NODE[1], … that it then stores; the heap is hidden (R58). -/

namespace Sys2Proof.Machine

/-- The leaf of one Alphabet entry (R240, R55). -/
def leafNode (f : Vector Word 128) (c : Byte) : Node :=
  { freq := f[c.toNat]?.getD 0, left := 0xFF, right := 0xFF, sym := c, isLeaf := true }

/-- The internal node that merges nodes `x` (extracted first, the left child, R242) and `y` (R240). -/
def mergeNode (nodes : List Node) (x y : Nat) : Node :=
  { freq := (nodes[x]?.getD default).freq + (nodes[y]?.getD default).freq
    left := BitVec.ofNat 8 x
    right := BitVec.ofNat 8 y
    sym := 0xFF
    isLeaf := false }

/-- `key(x) < key(y)` (R241): the frequency first, at equal frequency the node number. -/
def keyBefore (nodes : List Node) (x y : Nat) : Bool :=
  let fx := (nodes[x]?.getD default).freq.toNat
  let fy := (nodes[y]?.getD default).freq.toNat
  decide (fx < fy) || (fx == fy && decide (x < y))

/-- The argmin of `key` over the live nodes `x :: live` (R240). -/
def minLive (nodes : List Node) : Nat → List Nat → Nat
  | x, [] => x
  | x, y :: live => minLive nodes (if keyBefore nodes y x then y else x) live

/-- The merge loop (R240), at most `fuel` turns: `live` is the set H, `nodes` the entries written so far. Each turn
extracts the two smallest live nodes and adds their merge; with one live node the loop ends. -/
def mergeLoop : Nat → List Node → List Nat → List Node × List Nat
  | 0, nodes, live => (nodes, live)
  | fuel + 1, nodes, live =>
    match live with
    | [] => (nodes, [])
    | x0 :: rest0 =>
      let x := minLive nodes x0 rest0
      match (x0 :: rest0).erase x with
      | [] => (nodes, x0 :: rest0)
      | y0 :: rest1 =>
        let y := minLive nodes y0 rest1
        mergeLoop fuel (nodes ++ [mergeNode nodes x y]) ((y0 :: rest1).erase y ++ [nodes.length])

/-- `buildTree` (R240) for an Alphabet and its frequencies: the nodes written, and the live nodes left (the root). -/
def buildTree (f : Vector Word 128) (alphabet : List Byte) : List Node × List Nat :=
  mergeLoop alphabet.length (alphabet.map (leafNode f)) (List.range alphabet.length)

/-- The root's node number. -/
def treeRoot (t : List Node × List Nat) : Nat := t.2.headD 0

/-- `inorder` (R244), the left subtree first. The depth of a tree is below its number of nodes, so `fuel` at that number
never runs out. -/
def inorder (nodes : List Node) : Nat → Nat → List Byte
  | 0, _ => []
  | fuel + 1, k =>
    match nodes[k]? with
    | none => []
    | some nd =>
      if nd.isLeaf then [nd.sym]
      else inorder nodes fuel nd.left.toNat ++ inorder nodes fuel nd.right.toNat

/-- The leaf report of a tree (R244). -/
def treeLeaves (t : List Node × List Nat) : List Byte := inorder t.1 t.1.length (treeRoot t)

/-- TREE (R245). -/
def bodyTree (s : State) : Res Unit :=
  if !s.status.alphaValid || !s.status.freqValid then .raise .stateError s
  else
    let t := buildTree s.freq s.alphabet
    let leaves := treeLeaves t
    let s1 := { s with
      status := { s.status with treeValid := false }
      node := writeFrom s.node 0 t.1
      leaf := writeFrom s.leaf 0 leaves
      root := BitVec.ofNat 8 (treeRoot t)
      ncount := BitVec.ofNat 9 t.1.length
      leafcount := BitVec.ofNat 8 leaves.length }
    if s1.leafcount ≠ s1.tlen then .raise .treeBuildError s1
    else .ok () { s1 with status := { s1.status with treeValid := true } }

/-- TREE (R245). -/
def execTree (s : State) : Host.Outcome State Fault Refusal := runCommand bodyTree s

end Sys2Proof.Machine
end

