-- ==== Sys2Proof/Machine/Codec.lean ====
section
/-! DEFINITION. The streaming encoder ENCODE and the streaming decoder DECODE (45_codec.md), and the header integers
of the file format (R118 of 30_encoding.md). -/

namespace Sys2Proof.Machine

/-! ### Header integers (R11, R84) -/

/-- `le32`: the four bytes of a word, the least significant first (R11). -/
def le32 (v : Word) : List Byte := [v.extractLsb' 0 8, v.extractLsb' 8 8, v.extractLsb' 16 8, v.extractLsb' 24 8]

/-- `hdr32`: the bytes of a header integer in HDR_ENDIAN order (R11). -/
def hdr32 (e : HdrEndian) (v : Word) : List Byte :=
  match e with
  | .le => le32 v
  | .be => (le32 v).reverse

/-- The word of four bytes, the least significant first. -/
def ofLe32 (bs : List Byte) : Word := bs[3]?.getD 0 ++ bs[2]?.getD 0 ++ bs[1]?.getD 0 ++ bs[0]?.getD 0

/-- The 32 raw bits of four header bytes in HDR_ENDIAN order; `shdr32` is their two's complement value (R11). -/
def hdrWord (e : HdrEndian) (bs : List Byte) : Word :=
  match e with
  | .le => ofLe32 (bs.take 4)
  | .be => ofLe32 (bs.take 4).reverse

/-! ### ENCODE -/

/-- The default ODL_FN (R265), exact on natural numbers. -/
def odlFormula (w b len : Nat) : Nat := (w * len) / (8 * b) * b + (w * len) % (8 * b) / w

/-- ODL_FN of the instance (R6, R265). -/
def odlOf (p : Params) (w b len : Nat) : Word :=
  match p.odlFn with
  | .remainderFormula => BitVec.ofNat 32 (odlFormula w b len)
  | .other id => Config.odlOther id w b len

/-- TOTOUT_FN of the instance (R6, R266; the candidates of 90_conflicts.md C5), exact (R8, D26). -/
def totoutOf (p : Params) (tlen odl : Nat) : Nat :=
  match p.totoutFn with
  | .tlenPlusOdl => tlen + odl
  | .odlAlone => odl
  | .headerTlenOdl => 16 + tlen + odl
  | .other id => (Config.totoutOther id tlen odl).toNat

/-- Steps 3 to 5 (R264 to R266): width and geometry, ODL, TOTOUT, and the gain check, an exact comparison (D26). -/
def encodeGain (s : State) : Res Unit :=
  let w := selectWidth s.tlen.toNat
  let s1 := s.configure w
  let s2 := { s1 with odl := odlOf s1.params w s1.bpb.toNat s1.inlen.toNat }
  let total := totoutOf s2.params s2.tlen.toNat s2.odl.toNat
  let s3 := { s2 with totout := BitVec.ofNat 32 total }
  if s3.inlen.toNat ≤ total then .raise .noGainAbort s3 else .ok () s3

/-- The 16 header bytes (R118, R119, R267). -/
def headerBytes (s : State) : List Byte :=
  hdr32 s.params.hdrEndian s.inlen ++ hdr32 s.params.hdrEndian (s.tlen.setWidth 32) ++
    hdr32 s.params.hdrEndian (s.cw.setWidth 32) ++ hdr32 s.params.hdrEndian s.odl

/-- The characters of one chunk (R268): `n` more from position `pos` of IN, placed from block position `p` on. -/
def encodeChars : Nat → Nat → Nat → State → Res Unit
  | 0, _, _, s => .ok () s
  | n + 1, pos, p, s =>
    (readIn pos s).andThen fun ch s1 =>
      match lookupIndex s1.alphabet ch with
      | none => .raise .characterNotInAlphabet s1
      | some idx =>
        encodeChars n (pos + 1) (p + 1) (s1.setBuf (putIndex s1.params.idxOrder idx p s1.cw.toNat s1.buf))

/-- Step 7 (R268): `n` more blocks, the next chunk at position `pos` of IN. -/
def encodeBlocks : Nat → Nat → State → Res Unit
  | 0, _, s => .ok () s
  | n + 1, pos, s =>
    (encodeChars s.cpb.toNat pos 0 (s.setBuf (Vector.replicate 8 0))).andThen fun _ s1 =>
      (outAppend (s1.buf.toList.take s1.bpb.toNat) s1).andThen fun _ s2 =>
        encodeBlocks n (pos + s2.cpb.toNat) (s2.addEmitted s2.cpb.toNat)

/-- A raw tail (R269, R277): `n` more bytes from position `pos` of IN, each appended unchanged. -/
def copyTail : Nat → Nat → State → Res Unit
  | 0, _, s => .ok () s
  | n + 1, pos, s =>
    (readIn pos s).andThen fun ch s1 =>
      (outByte ch s1).andThen fun _ s2 => copyTail n (pos + 1) (s2.addEmitted 1)

/-- Steps 6 to 8 (R267 to R269): header, Alphabet, packed blocks, raw tail. -/
def encodeOutput (s : State) : Res Unit :=
  (outAppend (headerBytes s) s).andThen fun _ s1 =>
    (outAppend s1.alphabet s1).andThen fun _ s2 =>
      (encodeBlocks (s2.inlen.toNat / s2.cpb.toNat) 0 s2).andThen fun _ s3 =>
        copyTail (s3.inlen.toNat % s3.cpb.toNat) (s3.inlen.toNat / s3.cpb.toNat * s3.cpb.toNat) s3

/-- Steps 1 to 8 of ENCODE (R260): the bodies of SCAN, DEDUP and TREE with their errors (R261, R263), the gain check,
the output. -/
def encodeMain (s : State) : Res Unit :=
  (bodyScan s.freshSink).andThen fun _ s1 =>
    (bodyDedup s1).andThen fun _ s2 =>
      (bodyTree s2).andThen fun _ s3 =>
        (encodeGain s3).andThen fun _ s4 => encodeOutput s4

/-- The last write of ENCODE and DECODE: OUT_VALID ← 1 (R270, R272). -/
def markOutput (s : State) : State := { s with status := { s.status with outValid := true } }

/-- ENCODE (R260), with the close of every exit (R270). -/
def bodyEncode (s : State) : Res Unit :=
  spoilSink ((closeSink (encodeMain s)).andThen fun _ s1 => .ok () (markOutput s1))

/-! ### DECODE -/

/-- `MemRead(IN, pos, n)`: `n` bytes, one event each, appended to those read so far (R89). -/
def readBytes : Nat → Nat → List Byte → State → Res (List Byte)
  | 0, _, acc, s => .ok acc s
  | n + 1, pos, acc, s => (readIn pos s).andThen fun b s1 => readBytes n (pos + 1) (acc ++ [b]) s1

/-- The alphabet bytes into ALPHA (R274): `n` more from position `pos` of IN, into entry `k` on. -/
def readAlphabet : Nat → Nat → Nat → State → Res Unit
  | 0, _, _, s => .ok () s
  | n + 1, pos, k, s =>
    (readIn pos s).andThen fun b s1 =>
      readAlphabet n (pos + 1) (k + 1) { s1 with alpha := s1.alpha.setIfInBounds k b }

/-- One block into BUF (R276): `n` more bytes from position `pos` of IN, into BUF[j] on. -/
def readBlock : Nat → Nat → Nat → State → Res Unit
  | 0, _, _, s => .ok () s
  | n + 1, pos, j, s =>
    (readIn pos s).andThen fun b s1 => readBlock n (pos + 1) (j + 1) (s1.setBuf (s1.buf.setIfInBounds j b))

/-- BUF[b..8) ← 0 (R276). -/
def clearFrom (buf : Vector Byte 8) (b : Nat) : Vector Byte 8 := writeFrom buf b (List.replicate (8 - b) 0)

/-- The positions of one block (R276): `n` more from position `p` on; an index not below TLEN is CorruptIndex. -/
def decodePositions : Nat → Nat → State → Res Unit
  | 0, _, s => .ok () s
  | n + 1, p, s =>
    let idx := getIndex s.params.idxOrder p s.cw.toNat s.buf
    if s.tlen.toNat ≤ idx then .raise .corruptIndex s
    else (outByte (s.alpha[idx]?.getD 0) s).andThen fun _ s1 => decodePositions n (p + 1) (s1.addEmitted 1)

/-- Step 3 (R276): `n` more blocks, the next one at position `pos` of IN. -/
def decodeBlocks : Nat → Nat → State → Res Unit
  | 0, _, s => .ok () s
  | n + 1, pos, s =>
    if s.srclen.toNat < pos + s.bpb.toNat then .raise .lengthMismatch s
    else
      (readBlock s.bpb.toNat pos 0 s).andThen fun _ s1 =>
        (decodePositions s1.cpb.toNat 0 (s1.setBuf (clearFrom s1.buf s1.bpb.toNat))).andThen fun _ s2 =>
          decodeBlocks n (pos + s2.bpb.toNat) s2

/-- Step 4 (R277): `n` more tail bytes, the next one at position `pos` of IN. -/
def decodeTail : Nat → Nat → State → Res Unit
  | 0, _, s => .ok () s
  | n + 1, pos, s =>
    if s.srclen.toNat ≤ pos then .raise .lengthMismatch s
    else
      (readIn pos s).andThen fun b s1 =>
        (outByte b s1).andThen fun _ s2 => decodeTail n (pos + 1) (s2.addEmitted 1)

/-- The header test of R273 on inputLength, tableLength and codeWidth read as signed integers. -/
def headerAccepted (len table width : Word) : Bool :=
  decide (0 ≤ len.toInt) && decide (1 ≤ table.toInt) && decide (table.toInt ≤ 128) && decide (1 ≤ width.toInt) &&
    decide (width.toInt ≤ 7)

/-- Steps 2 to 4 (R275 to R277), after the header was accepted: the packed blocks and the raw tail. -/
def decodeData (s : State) : Res Unit :=
  (decodeBlocks (s.inlen.toNat / s.cpb.toNat) (16 + s.tlen.toNat) s).andThen fun _ s1 =>
    decodeTail (s1.inlen.toNat % s1.cpb.toNat)
      (16 + s1.tlen.toNat + s1.inlen.toNat / s1.cpb.toNat * s1.bpb.toNat) s1

/-- Step 1 with its writes and the configuration of step 2 (R273 to R275): the header `h` was read. -/
def decodeHeader (h : List Byte) (s : State) : Res Unit :=
  let e := s.params.hdrEndian
  let len := hdrWord e h
  let table := hdrWord e (h.drop 4)
  let width := hdrWord e (h.drop 8)
  if !headerAccepted len table width then .raise .corruptHeader s
  else if s.srclen.toNat < 16 + table.toNat then .raise .corruptHeader s
  else
    (readAlphabet table.toNat 16 0 s).andThen fun _ s1 =>
      let s2 := { s1 with
        inlen := len
        tlen := table.setWidth 8
        odl := hdrWord e (h.drop 12)
        status := { s1.status with alphaValid := true } }
      .ok () (s2.configure width.toNat)

/-- Steps 1 to 4 of DECODE (R272). -/
def decodeMain (s : State) : Res Unit :=
  let s0 := { s.freshSink with status := s.freshSink.status.decodeStart }
  if s0.srclen.toNat < 16 then .raise .corruptHeader s0
  else
    (readBytes 16 0 [] s0).andThen fun h s1 =>
      (decodeHeader h s1).andThen fun _ s2 => decodeData s2

/-- DECODE (R272), with the close of every exit and the final comparison of EMITTED with inputLength (R278). -/
def bodyDecode (s : State) : Res Unit :=
  spoilSink ((closeSink (decodeMain s)).andThen fun _ s1 =>
    if s1.emitted ≠ s1.inlen then .raise .lengthMismatch s1 else .ok () (markOutput s1))

/-- ENCODE (R260). -/
def execEncode (s : State) : Host.Outcome State Fault Refusal := runCommand bodyEncode s

/-- DECODE (R272). -/
def execDecode (s : State) : Host.Outcome State Fault Refusal := runCommand bodyDecode s

end Sys2Proof.Machine
end

