-- ==== Sys2Proof/Machine/Geometry.lean ====
section
/-! DEFINITION. WIDTH, GEOM and SETCW (42_geometry.md); the two tables stand in Operands.lean. -/

namespace Sys2Proof.Machine

/-- RESULT of GEOM (R194): charsPerBlock in bits 3:0, bytesPerBlock in bits 11:8. -/
def geomWord (g : Nat × Nat) : Word := BitVec.ofNat 32 g.1 ||| (BitVec.ofNat 32 g.2 <<< 8)

/-- WIDTH (R193). -/
def bodyWidth (a : Byte) (s : State) : Res Unit :=
  if !isTableLength a then .raise .badOperand s
  else .ok () (s.setResult (BitVec.ofNat 32 (selectWidth a.toNat)))

/-- GEOM (R194). -/
def bodyGeom (a : Byte) (s : State) : Res Unit :=
  if !isCodeWidth a then .raise .badOperand s
  else .ok () (s.setResult (geomWord (geometry s.params a.toNat)))

/-- SETCW (R195). -/
def bodySetcw (a : Byte) (s : State) : Res Unit :=
  if !isCodeWidth a then .raise .badOperand s
  else .ok () (s.configure a.toNat)

/-- WIDTH (R193). -/
def execWidth (a : Byte) (s : State) : Host.Outcome State Fault Refusal := runCommand (bodyWidth a) s

/-- GEOM (R194). -/
def execGeom (a : Byte) (s : State) : Host.Outcome State Fault Refusal := runCommand (bodyGeom a) s

/-- SETCW (R195). -/
def execSetcw (a : Byte) (s : State) : Host.Outcome State Fault Refusal := runCommand (bodySetcw a) s

end Sys2Proof.Machine
end

