-- ==== Sys2Proof/Machine/System.lean ====
section
/-! DEFINITION. The system commands NOP and CLEAR (40_system.md). -/

namespace Sys2Proof.Machine

/-- NOP (R151): `skip`. -/
def bodyNop (s : State) : Res Unit := .ok () s

/-- CLEAR (R152): every register of R61 but SRCLEN, BUF, the valid bits and STICKY. DEDUCED (log entry 18): RESULT too. -/
def bodyClear (s : State) : Res Unit :=
  .ok () { s with
    result := 0
    cw := 0
    cpb := 0
    bpb := 0
    inlen := 0
    tlen := 0
    odl := 0
    totout := 0
    leafcount := 0
    root := 0
    ncount := 0
    emitted := 0
    outlen := 0
    buf := Vector.replicate 8 0
    status := s.status.cleared }

/-- NOP (R151). -/
def execNop (s : State) : Host.Outcome State Fault Refusal := runCommand bodyNop s

/-- CLEAR (R152). -/
def execClear (s : State) : Host.Outcome State Fault Refusal := runCommand bodyClear s

end Sys2Proof.Machine
end

