-- ==== Sys2Proof/Machine/Dispatch.lean ====
section
/-! DEFINITION. One arm per command of R113 (30_encoding.md): the meaning it runs. -/

namespace Sys2Proof.Machine

def exec (i : Instr) (s : State) : Host.Outcome State Fault Refusal :=
  match i with
  | .nop => Sys2Proof.Machine.execNop s
  | .clear => Sys2Proof.Machine.execClear s
  | .getbit a => Sys2Proof.Machine.execGetbit a s
  | .setbit a b => Sys2Proof.Machine.execSetbit a b s
  | .bufclr => Sys2Proof.Machine.execBufclr s
  | .putidx a b => Sys2Proof.Machine.execPutidx a b s
  | .getidx a => Sys2Proof.Machine.execGetidx a s
  | .width a => Sys2Proof.Machine.execWidth a s
  | .geom a => Sys2Proof.Machine.execGeom a s
  | .setcw a => Sys2Proof.Machine.execSetcw a s
  | .scan => Sys2Proof.Machine.execScan s
  | .dedup => Sys2Proof.Machine.execDedup s
  | .lookup a => Sys2Proof.Machine.execLookup a s
  | .tree => Sys2Proof.Machine.execTree s
  | .encode => Sys2Proof.Machine.execEncode s
  | .decode => Sys2Proof.Machine.execDecode s

end Sys2Proof.Machine
end

