-- ==== Sys2Proof/Machine/Window.lean ====
section
/-! DEFINITION. The register window as the host reads it: the register map of R33 and the memory windows of R59
(10_state.md). Offsets are byte offsets from HFM_BASE. -/

namespace Sys2Proof.Machine

/-- The registers of R33. -/
inductive WindowReg where
  | cmd | status | errcode | result | cw | cpb | bpb | srclen | inlen | tlen | odl | totout | leafcount | root | ncount
  | emitted | outlen
  deriving DecidableEq, Repr

/-- The offset of each register (R33). -/
def WindowReg.offset : WindowReg → Nat
  | .cmd => 0x000
  | .status => 0x004
  | .errcode => 0x008
  | .result => 0x00C
  | .cw => 0x010
  | .cpb => 0x014
  | .bpb => 0x018
  | .srclen => 0x01C
  | .inlen => 0x020
  | .tlen => 0x024
  | .odl => 0x028
  | .totout => 0x02C
  | .leafcount => 0x030
  | .root => 0x034
  | .ncount => 0x038
  | .emitted => 0x03C
  | .outlen => 0x040

/-- The registers of R33 in the map's order. -/
def windowRegs : List WindowReg :=
  [.cmd, .status, .errcode, .result, .cw, .cpb, .bpb, .srclen, .inlen, .tlen, .odl, .totout, .leafcount, .root, .ncount,
    .emitted, .outlen]

/-- The word a register reads as: fields it does not list read 0 (R32), and CMD reads 0 (R33). -/
def WindowReg.read (r : WindowReg) (s : State) : Word :=
  match r with
  | .cmd => 0
  | .status => s.status.word
  | .errcode => s.errcode.setWidth 32
  | .result => s.result
  | .cw => s.cw.setWidth 32
  | .cpb => s.cpb.setWidth 32
  | .bpb => s.bpb.setWidth 32
  | .srclen => s.srclen
  | .inlen => s.inlen
  | .tlen => s.tlen.setWidth 32
  | .odl => s.odl
  | .totout => s.totout
  | .leafcount => s.leafcount.setWidth 32
  | .root => s.root.setWidth 32
  | .ncount => s.ncount.setWidth 32
  | .emitted => s.emitted
  | .outlen => s.outlen

/-- The links word of a NODE entry (R59): left in bits 7:0, right 15:8, sym 23:16, isLeaf bit 24. -/
def nodeLinks (nd : Node) : Word :=
  nd.left.setWidth 32 ||| (nd.right.setWidth 32 <<< 8) ||| (nd.sym.setWidth 32 <<< 16) ||| bitAt 24 nd.isLeaf

/-- The memory windows (R59); an offset that neither R33 nor R59 lists reads 0 (R32). -/
def readMemoryWindow (s : State) (off : Nat) : Word :=
  if 0x100 ≤ off ∧ off < 0x120 then (s.buf[(off - 0x100) / 4]?.getD 0).setWidth 32
  else if 0x200 ≤ off ∧ off < 0x400 then s.freq[(off - 0x200) / 4]?.getD 0
  else if 0x400 ≤ off ∧ off < 0x600 then (s.alpha[(off - 0x400) / 4]?.getD 0).setWidth 32
  else if 0x600 ≤ off ∧ off < 0x800 then (s.leaf[(off - 0x600) / 4]?.getD 0).setWidth 32
  else if 0x800 ≤ off ∧ off < 0xFF8 then
    let nd := s.node[(off - 0x800) / 8]?.getD default
    if off % 8 = 0 then nd.freq else nodeLinks nd
  else 0

/-- The word the host reads at an aligned window offset (R32, R33, R59). -/
def windowRead (s : State) (off : Nat) : Word :=
  match windowRegs.find? (fun r => r.offset == off) with
  | some r => r.read s
  | none => readMemoryWindow s off

end Sys2Proof.Machine
end

