-- ==== Sys2Proof/Machine/HostPort.lean ====
section
/-! DEFINITION. What each action of the host does (R340 of 70_reset_and_hazards.md): window accesses, IN and OUT, the
choice of I/O outcomes, power-on reset, and the issue of a command word. -/

namespace Sys2Proof.Machine

/-- The window offset of a platform address: 0x000 .. 0xFFF from HFM_BASE (R32, R80). -/
def windowOffset (p : Params) (addr : Nat) : Option Nat :=
  if p.hfmBase ≤ addr ∧ addr < p.hfmBase + 0x1000 then some (addr - p.hfmBase) else none

/-- A 32-bit access at a multiple of 4 (R88). -/
def isAligned (width : AccessWidth) (off : Nat) : Bool := width == .word && off % 4 == 0

/-- A word that selects no row of R113: the prologue, IllegalCommand, the epilogue (R114, R302). -/
def illegalCommand (s : State) : Host.Outcome State Fault Refusal := runCommand bodyIllegal s

/-- A host write of `w` to CMD: one command, run to its end (R150). While BUSY = 1 the word is lost (R333). -/
def issueCommand (w : Word) (s : State) : Host.Outcome State Fault Refusal :=
  if s.status.busy then .next s
  else
    match decode w with
    | .ok i => exec i s
    | .error _ => illegalCommand s

/-- A host write at a window offset: CMD issues a command, SRCLEN is set while the core is idle (R40, R94), every
other write is ignored (R32, R51, R91). -/
def writeWindowAt (off : Nat) (v : Word) (s : State) : Host.Outcome State Fault Refusal :=
  if off = WindowReg.offset .cmd then issueCommand v s
  else if off = WindowReg.offset .srclen then
    if s.status.busy then .refused .hostWhileBusy else .next { s with srclen := v }
  else .next s

/-- A window access of the host: outside the window it faults, narrow or misaligned it is refused (R88, U19). -/
def accessWindow (width : AccessWidth) (addr : Nat) (s : State)
    (access : Nat → Host.Outcome State Fault Refusal) : Host.Outcome State Fault Refusal :=
  match windowOffset s.params addr with
  | none => .fault .outsideWindow
  | some off => if isAligned width off then access off else .refused .narrowOrMisaligned

/-- A host read of OUT (R340): the byte at a position of the output; elsewhere a free value (log entry 8). -/
def readOutAt (pos : Word) (s : State) : Host.Outcome State Fault Refusal :=
  if s.status.busy then .refused .hostWhileBusy
  else if pos.toNat < s.outlen.toNat then
    .next { s with readData := (Memory.read s.outMem pos.toNat).setWidth 32 }
  else .next { s with readData := (Config.outOutside s.draws).setWidth 32, draws := s.draws + 1 }

/-- A host write of IN (R81, R340). -/
def writeInAt (pos : Word) (v : Byte) (s : State) : Host.Outcome State Fault Refusal :=
  if s.status.busy then .refused .hostWhileBusy
  else .next { s with inMem := Memory.write s.inMem pos.toNat v }

/-- Power-on reset (R61, R330): every register and BUF at its reset value; FREQ, ALPHA, NODE and LEAF unspecified (free
values, log entry 5); IN and OUT untouched; what is the host's and the instance's stays (log entry 17). -/
def powerOn (s : State) : State :=
  { State.reset with
    freq := Vector.ofFn fun c => Config.powerOnFreq s.draws c.val
    alpha := Vector.ofFn fun c => Config.powerOnAlpha s.draws c.val
    node := Vector.ofFn fun c => Config.powerOnNode s.draws c.val
    leaf := Vector.ofFn fun c => Config.powerOnLeaf s.draws c.val
    inMem := s.inMem
    outMem := s.outMem
    params := s.params
    ioOutcomes := s.ioOutcomes
    hostActions := s.hostActions
    readData := s.readData
    draws := s.draws + 1 }

/-- What one host action does (R340). -/
def perform (a : HostAction) (s : State) : Host.Outcome State Fault Refusal :=
  match a with
  | .readWindow width addr => accessWindow width addr s fun off => .next { s with readData := windowRead s off }
  | .writeWindow width addr v => accessWindow width addr s fun off => writeWindowAt off v s
  | .writeIn pos v => writeInAt pos v s
  | .readOut pos => readOutAt pos s
  | .chooseIo failures => .next { s with ioOutcomes := failures }
  | .powerOnReset => .next (powerOn s)

/-- One step: the host's next action, taken off its list. With no action pending the core is idle and all state
survives (R325, R332). -/
def hostStep (s : State) : Host.Outcome State Fault Refusal :=
  match s.hostActions with
  | [] => .next s
  | a :: rest => perform a { s with hostActions := rest }

/-- The host's next action becomes a write of the word to CMD, the core being idle. -/
def offerWord (s : State) (w : Word) : State :=
  { s with
    status := { s.status with busy := false }
    hostActions := .writeWindow .word (s.params.hfmBase + WindowReg.offset .cmd) w :: s.hostActions }

end Sys2Proof.Machine
end

