-- ==== Sys2Proof/Machine/Step.lean ====
section
/-! DEFINITION. The step function and the place it fetches from: commands reach the core only by host writes of CMD
(R97 of 20_memory.md), so the fetch is the host's next action. -/

namespace Sys2Proof.Machine

/-- One step of the machine (R31, R337, R339). -/
def step (s : State) : Host.Outcome State Fault Refusal := hostStep s

/-- The command word whose bits are `w` (those at and above `nbits` are 0) as the very next thing the step runs: a host
write of CMD put in front of the host's actions (log entry 1). -/
def State.withFetchWord (s : State) (nbits w : Nat) : State := offerWord s (BitVec.ofNat 32 (w % 2 ^ nbits))

end Sys2Proof.Machine
end

