-- ==== Sys2Proof/Machine/Assembler.lean ====
section
/-! DEFINITION. The assembler of R117 (30_encoding.md): a line of text to a command word. DESIGN CHOICE (log entry 16):
blanks around operands are ignored, mnemonics are in capitals and hexadecimal digits of either case are read. -/

namespace Sys2Proof.Machine

/-- Why a line is refused (R117). -/
inductive AsmError where
  /-- no command of R113 has this name -/
  | unknownMnemonic
  /-- an operand that is no decimal and no `0x` hexadecimal number -/
  | badNumber
  /-- an operand count other than the format's -/
  | operandCount
  /-- an operand above 255 -/
  | operandTooLarge
  deriving DecidableEq, Repr

/-- The name of each command (R113). -/
def mnemonicName : Mnemonic → String
  | .nop => "NOP"
  | .clear => "CLEAR"
  | .getbit => "GETBIT"
  | .setbit => "SETBIT"
  | .bufclr => "BUFCLR"
  | .putidx => "PUTIDX"
  | .getidx => "GETIDX"
  | .width => "WIDTH"
  | .geom => "GEOM"
  | .setcw => "SETCW"
  | .scan => "SCAN"
  | .dedup => "DEDUP"
  | .lookup => "LOOKUP"
  | .tree => "TREE"
  | .encode => "ENCODE"
  | .decode => "DECODE"

/-- The value of a digit in a base up to 16. -/
def digitValue (base : Nat) (c : Char) : Option Nat :=
  let n := c.toNat
  let v := if 48 ≤ n ∧ n ≤ 57 then n - 48
    else if 65 ≤ n ∧ n ≤ 70 then n - 55
    else if 97 ≤ n ∧ n ≤ 102 then n - 87
    else 16
  if v < base then some v else none

/-- The digits of a number, the value read so far being `acc`. -/
def digitsValue (base : Nat) : Nat → List Char → Option Nat
  | acc, [] => some acc
  | acc, c :: cs =>
    match digitValue base c with
    | some d => digitsValue base (acc * base + d) cs
    | none => none

/-- A decimal or `0x` hexadecimal number (R117). -/
def parseNumber (cs : List Char) : Option Nat :=
  match cs with
  | [] => none
  | ['0', 'x'] => none
  | '0' :: 'x' :: rest => digitsValue 16 0 rest
  | _ => digitsValue 10 0 cs

/-- The pieces of a text between separators. -/
def splitAtChar (sep : Char) : List Char → List (List Char)
  | [] => [[]]
  | c :: cs =>
    if c = sep then [] :: splitAtChar sep cs
    else
      match splitAtChar sep cs with
      | [] => [[c]]
      | piece :: pieces => (c :: piece) :: pieces

/-- A text without the blanks at its two ends. -/
def trimBlanks (cs : List Char) : List Char :=
  ((cs.dropWhile fun c => c == ' ').reverse.dropWhile fun c => c == ' ').reverse

/-- The operand texts after the mnemonic; no text is no operand. -/
def operandTexts (cs : List Char) : List (List Char) :=
  match trimBlanks cs with
  | [] => []
  | text => (splitAtChar ',' text).map trimBlanks

/-- The operand count of a format (R112, R117). -/
def operandCount : Format → Nat
  | .n => 0
  | .a => 1
  | .ab => 2

/-- The command of a mnemonic and its operand numbers: the count is the format's and none is above 255 (R117). -/
def commandOf (m : Mnemonic) (operands : List Nat) : Except AsmError Instr :=
  if operands.length ≠ operandCount m.format then .error .operandCount
  else if operands.any (fun n => decide (255 < n)) then .error .operandTooLarge
  else .ok (m.instr (BitVec.ofNat 8 (operands[0]?.getD 0)) (BitVec.ofNat 8 (operands[1]?.getD 0)))

/-- One line `MNEMONIC`, `MNEMONIC a` or `MNEMONIC a, b` (R117). -/
def assemble (line : List Char) : Except AsmError Instr :=
  let text := trimBlanks line
  let name := text.takeWhile fun c => c != ' '
  match opcodeMap.find? (fun m => (mnemonicName m).toList == name) with
  | none => .error .unknownMnemonic
  | some m =>
    match (operandTexts (text.drop name.length)).mapM parseNumber with
    | none => .error .badNumber
    | some operands => commandOf m operands

end Sys2Proof.Machine
end

