-- ==== Sys2Proof/Safety.lean ====
section
/-! DEFINITION. The terms claims use: how a command ends, the source and the output as byte lists, the file format as a
function of a text (R118 to R126 of 30_encoding.md), and the invariants of R57 (10_state.md) and of the error record. The
functions under Spec are written from the rules' wording, apart from the loops of the commands. -/

namespace Sys2Proof.Machine

/-! ### How a command ends -/

/-- A command that succeeds in `s`: ERRCODE 0, ERR 0, DONE 1, BUSY 0, STICKY as it was (R150). -/
def Spec.success (s : State) : Host.Outcome State Fault Refusal :=
  .next { s with errcode := 0#8, status := { s.status with err := false, done := true, busy := false } }

/-- A command that aborts in `s` with a code: ERRCODE, ERR 1, STICKY 1, DONE 1, BUSY 0 (R305). -/
def Spec.abort (s : State) (code : BitVec 8) : Host.Outcome State Fault Refusal :=
  .next { s with
    errcode := code, status := { s.status with err := true, sticky := true, done := true, busy := false } }

/-! ### What a command reads and writes -/

/-- IN[0..SRCLEN) (R40, R81). -/
def State.sourceBytes (s : State) : List Byte := Memory.readList s.inMem 0 s.srclen.toNat

/-- OUT[0..OUTLEN) (R49, R82). -/
def State.outputBytes (s : State) : List Byte := Memory.readList s.outMem 0 s.outlen.toNat

/-- The host lets the next `n` I/O events succeed (R90). -/
def State.ioSucceeds (s : State) (n : Nat) : Bool := (s.ioOutcomes.take n).all fun failed => !failed

/-- The host fails no I/O event it has chosen (R90). -/
def State.noIoFailure (s : State) : Bool := s.ioOutcomes.all fun failed => !failed

/-- Every byte is a 7-bit ASCII code point (R210). -/
def isAscii (text : List Byte) : Bool := text.all fun b => decide (b.toNat < 128)

/-- `scanCounts` (R210): the number of positions that hold each code point. -/
def Spec.scanCounts (text : List Byte) : Vector Word 128 :=
  Vector.ofFn fun c => BitVec.ofNat 32 (text.count (BitVec.ofNat 8 c.val))

/-- `BUF.bit(i)` of R13: (BUF[i div 8] >> (7 − (i mod 8))) & 1. -/
def Spec.bit (buf : Vector Byte 8) (i : Nat) : Byte := ((buf[i / 8]?.getD 0) >>> (7 - i % 8)) &&& 1#8

/-- A bit as the number R13's `BUF.bit` gives. -/
def Spec.bitByte (b : Bool) : Byte := if b then 1#8 else 0#8

/-! ### Command words, as R112 and the commands' own rules write them -/

/-- Format N: `0x000000oo`. -/
def Spec.wordN (opc : Byte) : Word := opc.setWidth 32

/-- Format A: `0x0000aaoo`. -/
def Spec.wordA (opc a : Byte) : Word := opc.setWidth 32 ||| (a.setWidth 32 <<< 8)

/-- Format AB: `0x00bbaaoo`. -/
def Spec.wordAB (opc a b : Byte) : Word := opc.setWidth 32 ||| (a.setWidth 32 <<< 8) ||| (b.setWidth 32 <<< 16)

/-! ### The tables -/

/-- The rows (first tableLength, last tableLength, codeWidth) of R190. -/
def Spec.widthRows : List (Nat × Nat × Nat) :=
  [(1, 1, 1), (2, 3, 2), (4, 7, 3), (8, 15, 4), (16, 31, 5), (32, 63, 6), (64, 127, 7), (128, 128, 7)]

/-- The rows (codeWidth, charsPerBlock, bytesPerBlock) of R191. -/
def Spec.geometryRows (p : Params) : List (Nat × Nat × Nat) :=
  [(1, 8, 1), (2, 4, 1), (3, 8, 3), (4, 2, 1), (5, 8, 5), (6, 4, 3),
    (7, 8, match p.w7Bpb with | .eight => 8 | .seven => 7)]

/-! ### The prefix tree -/

/-- `key(x) < key(y)` over the nodes of a build (R241): the frequency, then the node number. -/
def Spec.keyLess (nodes : List Node) (x y : Nat) : Prop :=
  let fx := (nodes[x]?.getD default).freq.toNat
  let fy := (nodes[y]?.getD default).freq.toNat
  fx < fy ∨ (fx = fy ∧ x < y)

/-- Node `z` is live when node `k` is made, with `n` leaves: it exists and is no child of an earlier internal node
(R240). -/
def Spec.liveAt (nodes : List Node) (n k z : Nat) : Prop :=
  z < k ∧ ∀ j, n ≤ j → j < k →
    (nodes[j]?.getD default).left.toNat ≠ z ∧ (nodes[j]?.getD default).right.toNat ≠ z

/-! ### The file format as a function of a text -/

/-- The bit of an index that stands at offset `j` of its `w`-bit field (R86, R123). -/
def Spec.fieldBit (o : IdxOrder) (w v j : Nat) : Bool :=
  match o with
  | .msbFirst => v.testBit (w - 1 - j)
  | .lsbFirst => v.testBit j

/-- The bits of an index field in the order of their offsets (R122, R123). -/
def Spec.indexBits (o : IdxOrder) (w v : Nat) : List Bool := (List.range w).map (Spec.fieldBit o w v)

/-- Byte `k` of a bit string, the most significant bit first (R85); bits past its end are 0 (R125). -/
def Spec.byteOfBits (bits : List Bool) (k : Nat) : Byte :=
  BitVec.ofNat 8 ((List.range 8).foldl (fun acc i => 2 * acc + (bits[8 * k + i]?.getD false).toNat) 0)

/-- A packed block of `b` bytes: the index fields one after the other (R122, R125). -/
def Spec.packBlock (o : IdxOrder) (w b : Nat) (indices : List Nat) : List Byte :=
  (List.range b).map (Spec.byteOfBits (indices.flatMap (Spec.indexBits o w)))

/-- The Alphabet of a text: its distinct characters, ascending (R15, R212). -/
def Spec.alphabetOf (text : List Byte) : List Byte :=
  ((List.range 128).map fun c => BitVec.ofNat 8 c).filter fun c => text.contains c

/-- The index of a character (R214). -/
def Spec.indexOf (alphabet : List Byte) (c : Byte) : Nat := alphabet.idxOf c

/-- Chunk `k` of a text, `c` characters (R122). -/
def Spec.chunk (text : List Byte) (c k : Nat) : List Byte := (text.drop (k * c)).take c

/-- The 16 header bytes of a file (R118). -/
def Spec.header (e : HdrEndian) (len table width odl : Word) : List Byte :=
  hdr32 e len ++ hdr32 e table ++ hdr32 e width ++ hdr32 e odl

/-- The packed data of a text: its full blocks, then its raw tail (R118, R122, R126). -/
def Spec.packedData (p : Params) (alphabet : List Byte) (w : Nat) (text : List Byte) : List Byte :=
  let c := (geometry p w).1
  (List.range (text.length / c)).flatMap (fun k =>
      Spec.packBlock p.idxOrder w (geometry p w).2 ((Spec.chunk text c k).map (Spec.indexOf alphabet))) ++
    text.drop (text.length / c * c)

/-- The code width of a text (R264). -/
def Spec.widthOf (text : List Byte) : Nat := selectWidth (Spec.alphabetOf text).length

/-- The outputDataLength of a text (R265). -/
def Spec.odlOfText (p : Params) (text : List Byte) : Word :=
  odlOf p (Spec.widthOf text) (geometry p (Spec.widthOf text)).2 text.length

/-- The totalOutputBytes of a text (R266). -/
def Spec.totoutOfText (p : Params) (text : List Byte) : Nat :=
  totoutOf p (Spec.alphabetOf text).length (Spec.odlOfText p text).toNat

/-- The file of a text (R118): header, Alphabet, data. -/
def Spec.fileOf (p : Params) (text : List Byte) : List Byte :=
  let alphabet := Spec.alphabetOf text
  let w := Spec.widthOf text
  Spec.header p.hdrEndian (BitVec.ofNat 32 text.length) (BitVec.ofNat 32 alphabet.length) (BitVec.ofNat 32 w)
      (Spec.odlOfText p text) ++
    alphabet ++ Spec.packedData p alphabet w text

/-- What ENCODE of a text writes and its code, when no I/O event fails (R260, R306): the errors in their order. -/
def Spec.encodeText (p : Params) (text : List Byte) : List Byte × BitVec 8 :=
  if 2147483647 < text.length then ([], 0x0A#8)
  else if !isAscii text then ([], 0x01#8)
  else if text.length = 0 then ([], 0x09#8)
  else if text.length ≤ Spec.totoutOfText p text then ([], 0x03#8)
  else (Spec.fileOf p text, 0x00#8)

/-! ### The file format read back -/

/-- The bits of a byte string, the most significant bit of each byte first (R85). -/
def Spec.bitsOf (bytes : List Byte) : List Bool :=
  bytes.flatMap fun b => (List.range 8).map fun i => b.getLsbD (7 - i)

/-- The number a field's bits stand for (R86). -/
def Spec.indexOfBits (o : IdxOrder) (w : Nat) (bits : List Bool) : Nat :=
  ((List.range w).map fun j =>
    (bits[j]?.getD false).toNat *
      match o with
      | .msbFirst => 2 ^ (w - 1 - j)
      | .lsbFirst => 2 ^ j).sum

/-- The indices of a packed block (R122, R276). -/
def Spec.blockIndices (o : IdxOrder) (w c : Nat) (bytes : List Byte) : List Nat :=
  (List.range c).map fun p => Spec.indexOfBits o w (((Spec.bitsOf bytes).drop (p * w)).take w)

/-- What DECODE writes from the packed data, and its code (R276, R277): `n` blocks, then `tail` raw bytes. The
characters before a corrupt index are written; a missing block or tail byte is LengthMismatch. -/
def Spec.decodeData (o : IdxOrder) (w c b : Nat) (alphabet : List Byte) :
    Nat → Nat → List Byte → List Byte × BitVec 8
  | 0, tail, data => (data.take tail, if data.length < tail then 0x07#8 else 0x00#8)
  | n + 1, tail, data =>
    if data.length < b then ([], 0x07#8)
    else
      let good := (Spec.blockIndices o w c (data.take b)).takeWhile fun i => decide (i < alphabet.length)
      let chars := good.map fun i => alphabet[i]?.getD 0
      if good.length < c then (chars, 0x05#8)
      else
        let rest := Spec.decodeData o w c b alphabet n tail (data.drop b)
        (chars ++ rest.1, rest.2)

/-- The header integer at a position of the file, as raw bits (R84, R118). -/
def Spec.headerField (e : HdrEndian) (file : List Byte) (pos : Nat) : Word :=
  let b := fun k => file[pos + k]?.getD 0
  match e with
  | .le => b 3 ++ b 2 ++ b 1 ++ b 0
  | .be => b 0 ++ b 1 ++ b 2 ++ b 3

/-- A file whose header DECODE takes (R273). -/
def Spec.headerOk (p : Params) (file : List Byte) : Bool :=
  let len := (Spec.headerField p.hdrEndian file 0).toInt
  let table := (Spec.headerField p.hdrEndian file 4).toInt
  let width := (Spec.headerField p.hdrEndian file 8).toInt
  decide (16 ≤ file.length ∧ 0 ≤ len ∧ 1 ≤ table ∧ table ≤ 128 ∧ 1 ≤ width ∧ width ≤ 7 ∧ 16 + table ≤ file.length)

/-- What DECODE of a file writes and its code, when no I/O event fails (R272). -/
def Spec.decodeFile (p : Params) (file : List Byte) : List Byte × BitVec 8 :=
  if !Spec.headerOk p file then ([], 0x08#8)
  else
    let len := (Spec.headerField p.hdrEndian file 0).toNat
    let table := (Spec.headerField p.hdrEndian file 4).toNat
    let w := (Spec.headerField p.hdrEndian file 8).toNat
    let g := geometry p w
    Spec.decodeData p.idxOrder w g.1 g.2 ((file.drop 16).take table) (len / g.1) (len % g.1) (file.drop (16 + table))

/-! ### I/O events -/

/-- With no failed event the command ends in `t` and makes exactly `n` I/O events (R90): of `n + 1` outcomes on offer it
leaves one. -/
def Spec.RunsWith (i : Instr) (s : State) (n : Nat) (t : State) : Prop :=
  exec i { s with ioOutcomes := List.replicate (n + 1) false } = .next t ∧ t.ioOutcomes = [false]

/-- The reads and appends of a raw tail of `n` bytes, true for an append (R269, R277). -/
def Spec.tailEvents (n : Nat) : List Bool := (List.replicate n [false, true]).flatten

/-- The I/O events of an ENCODE of a text that passes its checks, before the close, true for an append: the scan, the
header and the Alphabet, each block's reads and appends, the raw tail (R260). An ENCODE that aborts makes the first of
them. -/
def Spec.encodeEvents (p : Params) (text : List Byte) : List Bool :=
  let g := geometry p (Spec.widthOf text)
  List.replicate text.length false ++ List.replicate (16 + (Spec.alphabetOf text).length) true ++
    (List.replicate (text.length / g.1) (List.replicate g.1 false ++ List.replicate g.2 true)).flatten ++
    Spec.tailEvents (text.length % g.1)

/-- The I/O events of a DECODE of a file it can decode, before the close, true for an append: the header, the Alphabet,
each block's reads and appends, the raw tail (R272). A DECODE that aborts makes the first of them. -/
def Spec.decodeEvents (p : Params) (file : List Byte) : List Bool :=
  let len := (Spec.headerField p.hdrEndian file 0).toNat
  let g := geometry p (Spec.headerField p.hdrEndian file 8).toNat
  List.replicate (16 + (Spec.headerField p.hdrEndian file 4).toNat) false ++
    (List.replicate (len / g.1) (List.replicate g.2 false ++ List.replicate g.1 true)).flatten ++
    Spec.tailEvents (len % g.1)

/-- The appends among the first `k` events. -/
def Spec.appendsIn (events : List Bool) (k : Nat) : Nat := (events.take k).count true

/-! ### Invariants -/

/-- The core is idle between steps, its memories are canonical, and the record of the last command is coherent:
ERR is 1 exactly when ERRCODE is not 0, an error leaves STICKY and DONE set, ERRCODE is a code of R301
(R31, R34, R35, R301, R317). -/
structure State.Coherent (s : State) : Prop where
  idle : s.status.busy = false
  inCanonical : s.inMem.wf = true
  outCanonical : s.outMem.wf = true
  errIff : s.status.err = (s.errcode != 0)
  errSticky : s.status.err = true → s.status.sticky = true
  errDone : s.status.err = true → s.status.done = true
  errListed : s.errcode = 0 ∨ ∃ e : ErrKind, s.errcode = e.code

/-- FREQ and INLEN hold the counts of some source of ASCII bytes, not longer than MAX_INPUT (R57 (a)). -/
def State.FreqCounts (s : State) : Prop :=
  ∃ text : List Byte, isAscii text = true ∧ text.length = s.inlen.toNat ∧ text.length ≤ 2147483647 ∧
    s.freq = Spec.scanCounts text

/-- NODE, LEAF, ROOT, NCOUNT and LEAFCOUNT are those of the tree of the current FREQ and ALPHA (R57 (d)). -/
def State.TreeTables (s : State) : Prop :=
  let t := buildTree s.freq s.alphabet
  s.node.toList.take t.1.length = t.1 ∧ s.leaf.toList.take (treeLeaves t).length = treeLeaves t ∧
    s.root = BitVec.ofNat 8 (treeRoot t) ∧ s.ncount = BitVec.ofNat 9 t.1.length ∧
    s.leafcount = BitVec.ofNat 8 (treeLeaves t).length

/-- CFG_VALID = 1 implies that CW is a width and CPB and BPB are its geometry (R57 (e)). -/
abbrev State.CfgTable (s : State) : Prop :=
  s.status.cfgValid = true → 1 ≤ s.cw.toNat ∧
    s.cpb.toNat = (geometry s.params s.cw.toNat).1 ∧ s.bpb.toNat = (geometry s.params s.cw.toNat).2

/-- The validity invariants (a) to (e) of R57. -/
structure State.Valid (s : State) : Prop where
  freqCounts : s.status.freqValid = true → s.FreqCounts
  alphaRange : s.status.alphaValid = true → 1 ≤ s.tlen.toNat ∧ s.tlen.toNat ≤ 128
  alphaDedup : s.status.freqValid = true → s.status.alphaValid = true → s.alphabet = dedupList s.freq
  treeBits : s.status.treeValid = true → s.status.alphaValid = true ∧ s.status.freqValid = true
  treeTables : s.status.treeValid = true → s.TreeTables
  cfgTable : s.CfgTable

/-- Two states that differ at most in what no valid bit covers: FREQ while FREQ_VALID = 0, ALPHA outside a valid
Alphabet, NODE and LEAF outside a valid tree, which is NODE[0..NCOUNT) and LEAF[0..LEAFCOUNT) (R57, R61, R331). -/
def State.Alike (s t : State) : Prop :=
  { s with freq := t.freq, alpha := t.alpha, node := t.node, leaf := t.leaf } = t ∧
    (s.status.freqValid = true → s.freq = t.freq) ∧ (s.status.alphaValid = true → s.alphabet = t.alphabet) ∧
    (s.status.treeValid = true →
      s.node.toList.take s.ncount.toNat = t.node.toList.take t.ncount.toNat ∧
        s.leaf.toList.take s.leafcount.toNat = t.leaf.toList.take t.leafcount.toNat)

/-- The registers, STATUS and BUF as the reset table of R61 gives them; FREQ, ALPHA, NODE and LEAF are unspecified. -/
def Spec.ResetTable (t : State) : Prop :=
  t.status.word = 0 ∧ t.errcode = 0 ∧ t.result = 0 ∧ t.cw = 0 ∧ t.cpb = 0 ∧ t.bpb = 0 ∧ t.srclen = 0 ∧ t.inlen = 0 ∧
    t.tlen = 0 ∧ t.odl = 0 ∧ t.totout = 0 ∧ t.leafcount = 0 ∧ t.root = 0 ∧ t.ncount = 0 ∧ t.emitted = 0 ∧
    t.outlen = 0 ∧ ∀ k, (h : k < 8) → t.buf[k] = 0

/-! ### Safe runs -/

/-- The states a run from reset reaches when the host acts as it likes (R339). -/
inductive Reachable : State → Prop where
  /-- power-on reset of an instance with any parameters, any contents of the tables that reset leaves unspecified, any
  host memories in canonical form, any host behaviour -/
  | reset (p : Params) (freq : Vector Word 128) (alpha : Vector Byte 128) (node : Vector Node 255)
      (leaf : Vector Byte 128) (inMem outMem : Memory) (io : List Bool) (host : List HostAction)
      (hin : inMem.wf = true) (hout : outMem.wf = true) :
      Reachable { State.reset with
        params := p, freq := freq, alpha := alpha, node := node, leaf := leaf, inMem := inMem, outMem := outMem,
        ioOutcomes := io, hostActions := host }
  /-- one step -/
  | step {s t : State} : Reachable s → Machine.step s = .next t → Reachable t

end Sys2Proof.Machine
end

