-- ==== Sys2Proof/Certificates/Slice0/Obligations.lean ====
section
/-! DEFINITION. The statements for the provers, in the order of OBLIGATIONS.json. -/

open Sys2Proof Sys2Proof.Machine

/-! ### Encoding -/

/-- Words written out from the encodings of R111 to R113 decode to the commands they stand for, and words with a nonzero
must-be-zero bit or an unassigned OPC to none. -/
def Obligations.SpecWordsDecode : Prop :=
  decode 0x00000000#32 = .ok .nop ∧ decode 0x00003F10#32 = .ok (.getbit 63) ∧
    decode 0x00010911#32 = .ok (.setbit 9 1) ∧ decode 0x00020513#32 = .ok (.putidx 5 2) ∧
    decode 0x00000920#32 = .ok (.width 9) ∧ decode 0x00000721#32 = .ok (.geom 7) ∧
    decode 0x00007232#32 = .ok (.lookup 0x72) ∧ decode 0x00000040#32 = .ok .encode ∧
    decode 0x00000100#32 = .error (.operandNotZero 1) ∧ decode 0x01000040#32 = .error (.reservedNotZero 1) ∧
    decode 0x00000002#32 = .error (.unassignedOpcode 2)

/-- Decode and encode agree: every command, with every operand value, is read back from its word (R111 to R114). -/
def Obligations.DecodeOfEncode : Prop := ∀ i : Instr, decode (encode i) = .ok i

/-- Each word has one meaning: a word that decodes to a command is that command's word (R112, R114). -/
def Obligations.EncodeOfDecode : Prop := ∀ (w : Word) (i : Instr), decode w = .ok i → encode i = w

/-- R114 and R302: a word selects exactly one row of the opcode map and decodes to its command with the operands of the
word, or it selects none, decodes to nothing, and written to CMD aborts with IllegalCommand and changes no other state. -/
def Obligations.DecodingSelectsOneRow : Prop :=
  ∀ w : Word,
    ((∃ m ∈ opcodeMap, (w &&& m.format.mask = m.pattern ∧
          decode w = .ok (m.instr (w.extractLsb' 8 8) (w.extractLsb' 16 8))) ∧
        ∀ m' ∈ opcodeMap, w &&& m'.format.mask = m'.pattern → m' = m) ∨
      ((∀ m ∈ opcodeMap, w &&& m.format.mask ≠ m.pattern) ∧ (∃ e, decode w = .error e) ∧
        ∀ s : State, s.status.busy = false → issueCommand w s = Spec.abort s 0x10#8))

/-- R116: the reserved OPC ranges, nonzero RSV fields and nonzero unused operand fields are illegal. -/
def Obligations.ReservedEncodingsAreIllegal : Prop :=
  ∀ w : Word,
    let opc := (w.extractLsb' 0 8).toNat
    let a := w.extractLsb' 8 8
    let b := w.extractLsb' 16 8
    let rsv := w.extractLsb' 24 8
    ((2 ≤ opc ∧ opc ≤ 0x0F) ∨ (0x15 ≤ opc ∧ opc ≤ 0x1F) ∨ (0x23 ≤ opc ∧ opc ≤ 0x2F) ∨ (0x34 ≤ opc ∧ opc ≤ 0x3F) ∨
        0x42 ≤ opc ∨ rsv ≠ 0 ∨
        (opc ∈ [0x00, 0x01, 0x12, 0x30, 0x31, 0x33, 0x40, 0x41] ∧ (a ≠ 0 ∨ b ≠ 0)) ∨
        (opc ∈ [0x10, 0x14, 0x20, 0x21, 0x22, 0x32] ∧ b ≠ 0)) →
      ∃ e, decode w = .error e

/-- The assembler takes operands exactly when there are as many as the format has and none is above 255 (R117). -/
def Obligations.AssemblerOperandRules : Prop :=
  ∀ (m : Mnemonic) (ops : List Nat),
    ((∃ i, commandOf m ops = .ok i) ↔ ops.length = operandCount m.format ∧ ∀ n ∈ ops, n ≤ 255) ∧
      (∀ i, commandOf m ops = .ok i → i.mnemonic = m)

/-! ### The step and the host -/

/-- A step runs the decoded command: when the host's next action writes a word to CMD of an idle core, the step takes that
action off the host's list and is exec of the decoded command, or the abort with IllegalCommand; `withFetchWord` places
exactly such a write; with no action pending the core is idle and all its state survives (R150, R325, R332). -/
def Obligations.StepRunsTheWrittenCommand : Prop :=
  (∀ (s : State) (w : Word) (rest : List HostAction),
      s.hostActions = .writeWindow .word s.params.hfmBase w :: rest → s.status.busy = false →
      (∀ i, decode w = .ok i → step s = exec i { s with hostActions := rest }) ∧
        (∀ e, decode w = .error e → step s = Spec.abort { s with hostActions := rest } 0x10#8)) ∧
    (∀ (s : State) (w : Nat) (i : Instr), s.status.busy = false → decode (BitVec.ofNat 32 w) = .ok i →
      step (s.withFetchWord 32 w) = exec i s) ∧
    ∀ s : State, s.hostActions = [] → step s = .next s

/-- A write of CMD while BUSY = 1 has no effect on the core and the word is lost. The model's choice (log entry 11): in the
atomic model R333 says that the case cannot arise, and only of a model that splits commands what the write does. -/
def Obligations.BusyCommandWriteIsLost : Prop :=
  ∀ (s : State) (w : Word) (rest : List HostAction), s.status.busy = true →
    s.hostActions = .writeWindow .word s.params.hfmBase w :: rest → step s = .next { s with hostActions := rest }

/-- The host writes only CMD and SRCLEN: a write at SRCLEN sets it and nothing else, a write at any other aligned offset
of the window but CMD is ignored (R32, R40, R51, R91). -/
def Obligations.HostWindowWrites : Prop :=
  ∀ (s : State) (off : Nat) (v : Word) (rest : List HostAction), s.status.busy = false → off % 4 = 0 →
    off < 0x1000 → off ≠ 0 → s.hostActions = .writeWindow .word (s.params.hfmBase + off) v :: rest →
      step s = if off = 0x01C then .next { s with hostActions := rest, srclen := v }
        else .next { s with hostActions := rest }

/-- A narrow or misaligned window access is refused (R88); an access outside the window's 4096 bytes faults (R80;
the fault is the model's choice, log entry 12). -/
def Obligations.BadWindowAccessStops : Prop :=
  ∀ (s : State) (width : AccessWidth) (addr : Nat) (v : Word) (rest : List HostAction) (a : HostAction),
    (a = .readWindow width addr ∨ a = .writeWindow width addr v) → s.hostActions = a :: rest →
      (s.params.hfmBase ≤ addr → addr < s.params.hfmBase + 0x1000 →
        (width ≠ .word ∨ (addr - s.params.hfmBase) % 4 ≠ 0) → step s = .refused .narrowOrMisaligned) ∧
      ((addr < s.params.hfmBase ∨ s.params.hfmBase + 0x1000 ≤ addr) → step s = .fault .outsideWindow)

/-- A host read of the window returns the word there and changes nothing of the core (R91, R340). -/
def Obligations.WindowReadsHaveNoSideEffect : Prop :=
  ∀ (s : State) (off : Nat) (rest : List HostAction), off % 4 = 0 → off < 0x1000 →
    s.hostActions = .readWindow .word (s.params.hfmBase + off) :: rest →
      step s = .next { s with hostActions := rest, readData := windowRead s off }

/-- The host's accesses to IN and OUT (R81, R82, R94, R340): an idle core lets the host write IN and read the output; a
byte written to IN is read back and no other byte of IN changes; while BUSY = 1 the model refuses them (log entry 11). -/
def Obligations.HostMemoryAccesses : Prop :=
  (∀ (s : State) (pos : Word) (v : Byte) (rest : List HostAction), s.hostActions = .writeIn pos v :: rest →
      (s.status.busy = true → step s = .refused .hostWhileBusy) ∧
      (s.status.busy = false → s.inMem.wf = true →
        ∃ m : Memory, step s = .next { s with hostActions := rest, inMem := m } ∧ m.wf = true ∧
          Memory.read m pos.toNat = v ∧ ∀ p, p ≠ pos.toNat → Memory.read m p = Memory.read s.inMem p)) ∧
    ∀ (s : State) (pos : Word) (rest : List HostAction), s.hostActions = .readOut pos :: rest →
      (s.status.busy = true → step s = .refused .hostWhileBusy) ∧
      (s.status.busy = false → pos.toNat < s.outlen.toNat →
        step s = .next { s with
          hostActions := rest, readData := (Memory.read s.outMem pos.toNat).setWidth 32 })

/-- The register map: what each register's offset reads as (R33), CMD as 0, and the STATUS bits of R34, each at its place
and bits 31:9 zero. -/
def Obligations.RegisterMapReads : Prop :=
  (∀ s : State,
    windowRead s 0x000 = 0 ∧ windowRead s 0x004 = s.status.word ∧ windowRead s 0x008 = s.errcode.setWidth 32 ∧
    windowRead s 0x00C = s.result ∧ windowRead s 0x010 = s.cw.setWidth 32 ∧ windowRead s 0x014 = s.cpb.setWidth 32 ∧
    windowRead s 0x018 = s.bpb.setWidth 32 ∧ windowRead s 0x01C = s.srclen ∧ windowRead s 0x020 = s.inlen ∧
    windowRead s 0x024 = s.tlen.setWidth 32 ∧ windowRead s 0x028 = s.odl ∧ windowRead s 0x02C = s.totout ∧
    windowRead s 0x030 = s.leafcount.setWidth 32 ∧ windowRead s 0x034 = s.root.setWidth 32 ∧
    windowRead s 0x038 = s.ncount.setWidth 32 ∧ windowRead s 0x03C = s.emitted ∧ windowRead s 0x040 = s.outlen) ∧
  ∀ st : Status,
    st.word.getLsbD 0 = st.busy ∧ st.word.getLsbD 1 = st.done ∧ st.word.getLsbD 2 = st.err ∧
    st.word.getLsbD 3 = st.sticky ∧ st.word.getLsbD 4 = st.freqValid ∧ st.word.getLsbD 5 = st.alphaValid ∧
    st.word.getLsbD 6 = st.cfgValid ∧ st.word.getLsbD 7 = st.treeValid ∧ st.word.getLsbD 8 = st.outValid ∧
    ∀ k, 9 ≤ k → st.word.getLsbD k = false

/-- The memory windows of R59: each entry at its offset and each field of a NODE links word at its bits; an aligned
offset that neither R33 nor R59 lists reads 0 (R32). -/
def Obligations.MemoryWindowReads : Prop :=
  ∀ s : State,
    (∀ k, (h : k < 8) → windowRead s (0x100 + 4 * k) = s.buf[k].setWidth 32) ∧
    (∀ c, (h : c < 128) → windowRead s (0x200 + 4 * c) = s.freq[c]) ∧
    (∀ k, (h : k < 128) → windowRead s (0x400 + 4 * k) = s.alpha[k].setWidth 32) ∧
    (∀ k, (h : k < 128) → windowRead s (0x600 + 4 * k) = s.leaf[k].setWidth 32) ∧
    (∀ k, (h : k < 255) → windowRead s (0x800 + 8 * k) = s.node[k].freq ∧
      (windowRead s (0x804 + 8 * k)).extractLsb' 0 8 = s.node[k].left ∧
      (windowRead s (0x804 + 8 * k)).extractLsb' 8 8 = s.node[k].right ∧
      (windowRead s (0x804 + 8 * k)).extractLsb' 16 8 = s.node[k].sym ∧
      (windowRead s (0x804 + 8 * k)).getLsbD 24 = s.node[k].isLeaf ∧
      ∀ j, 25 ≤ j → (windowRead s (0x804 + 8 * k)).getLsbD j = false) ∧
    (∀ off, off % 4 = 0 → (0x044 ≤ off ∧ off < 0x100 ∨ 0x120 ≤ off ∧ off < 0x200 ∨ 0xFF8 ≤ off) → windowRead s off = 0)

/-- R61: a power-on reset of a core in any state, and the state right after reset, have the registers of the reset table,
STATUS 0 and BUF 0; the reset touches neither IN nor OUT. FREQ, ALPHA, NODE and LEAF are unspecified there, and the
statement leaves them so. -/
def Obligations.PowerOnResetTable : Prop :=
  Spec.ResetTable State.reset ∧
    ∀ (s : State) (rest : List HostAction), s.hostActions = .powerOnReset :: rest →
      ∃ t, step s = .next t ∧ Spec.ResetTable t ∧ t.inMem = s.inMem ∧ t.outMem = s.outMem

/-! ### The command cycle, errors and frames -/

/-- The command cycle (R150, R152, R317, R319): every command, in every state, ends in a next state with BUSY 0 and DONE
1, with ERR set exactly when ERRCODE is not 0, and with STICKY the OR of its old value and ERR, but for CLEAR, which
succeeds and clears it. -/
def Obligations.CommandCycleRecordsTheEnd : Prop :=
  ∀ (i : Instr) (s : State), ∃ t, exec i s = .next t ∧ t.status.busy = false ∧ t.status.done = true ∧
    t.status.err = (t.errcode != 0) ∧
    (i = .clear → t.errcode = 0 ∧ t.status.sticky = false) ∧
    (i ≠ .clear → t.status.sticky = (s.status.sticky || t.errcode != 0))

/-- Which registers, memories and valid bits each command can write (R34 to R56): the others are unchanged, whether it
succeeds or aborts. That SCAN leaves OUT and OUT_VALID after its IoFailure too is the model's deduction (log entry 7: R34,
R211 and R300 against R90), and that CLEAR may write RESULT is its reading of R152 against R36 (log entry 18). The host's
choices of I/O outcomes are used up by SCAN, ENCODE and DECODE alone. -/
def Obligations.CommandsWriteOnlyTheirState : Prop :=
  ∀ (i : Instr) (s t : State), exec i s = .next t →
    let m := i.mnemonic
    (t.srclen = s.srclen ∧ t.inMem = s.inMem ∧ t.params = s.params ∧ t.hostActions = s.hostActions ∧
      t.readData = s.readData) ∧
    (m ∉ [.getbit, .getidx, .width, .geom, .lookup, .clear] → t.result = s.result) ∧
    (m ∉ [.setcw, .encode, .decode, .clear] →
      t.cw = s.cw ∧ t.cpb = s.cpb ∧ t.bpb = s.bpb ∧ t.status.cfgValid = s.status.cfgValid) ∧
    (m ∉ [.scan, .encode, .decode, .clear] → t.inlen = s.inlen ∧ t.status.freqValid = s.status.freqValid) ∧
    (m ∉ [.dedup, .encode, .decode, .clear] → t.tlen = s.tlen) ∧
    (m ∉ [.encode, .decode, .clear] →
      t.odl = s.odl ∧ t.emitted = s.emitted ∧ t.outlen = s.outlen ∧ t.status.outValid = s.status.outValid) ∧
    (m ∉ [.encode, .clear] → t.totout = s.totout) ∧
    (m ∉ [.tree, .encode, .clear] → t.leafcount = s.leafcount ∧ t.root = s.root ∧ t.ncount = s.ncount) ∧
    (m ∉ [.setbit, .bufclr, .putidx, .encode, .decode, .clear] → t.buf = s.buf) ∧
    (m ∉ [.scan, .encode] → t.freq = s.freq) ∧
    (m ∉ [.dedup, .encode, .decode] → t.alpha = s.alpha) ∧
    (m ∉ [.tree, .encode] → t.node = s.node ∧ t.leaf = s.leaf) ∧
    (m ∉ [.encode, .decode] → t.outMem = s.outMem ∧ t.draws = s.draws) ∧
    (m ∉ [.scan, .encode, .decode] → t.ioOutcomes = s.ioOutcomes) ∧
    (m ∉ [.dedup, .scan, .encode, .decode, .clear] → t.status.alphaValid = s.status.alphaValid) ∧
    (m ∉ [.tree, .encode, .scan, .dedup, .decode, .clear] → t.status.treeValid = s.status.treeValid)

/-- An aborted command leaves RESULT unchanged (R36, R305), and OUT_VALID is 1 after ENCODE or DECODE exactly when it
succeeded (R271, R279). -/
def Obligations.AbortKeepsResultAndInvalidatesOutput : Prop :=
  ∀ (i : Instr) (s t : State), exec i s = .next t →
    (t.errcode ≠ 0 → t.result = s.result) ∧
      ((i = .encode ∨ i = .decode) → t.status.outValid = (t.errcode == 0))

/-- The codes each command can end with (the column "raised by" of R301); every command that R301 does not name for a code
never ends with it. -/
def Obligations.ErrorCodesByCommand : Prop :=
  ∀ (i : Instr) (s t : State), exec i s = .next t →
    t.errcode.toNat ∈
      match i.mnemonic with
      | .nop => [0x00]
      | .clear => [0x00]
      | .bufclr => [0x00]
      | .getbit => [0x00, 0x11]
      | .setbit => [0x00, 0x11]
      | .width => [0x00, 0x11]
      | .geom => [0x00, 0x11]
      | .setcw => [0x00, 0x11]
      | .putidx => [0x00, 0x11, 0x12]
      | .getidx => [0x00, 0x11, 0x12]
      | .scan => [0x00, 0x01, 0x06, 0x0A]
      | .dedup => [0x00, 0x09, 0x12]
      | .lookup => [0x00, 0x04, 0x12]
      | .tree => [0x00, 0x02, 0x12]
      | .encode => [0x00, 0x01, 0x02, 0x03, 0x04, 0x06, 0x09, 0x0A]
      | .decode => [0x00, 0x05, 0x06, 0x07, 0x08]

/-- R303: a command that needs a valid bit that is 0 aborts with StateError, and no state but ERRCODE and STATUS
changes. -/
def Obligations.StateErrorChangesNothing : Prop :=
  ∀ s : State,
    (s.status.cfgValid = false → ∀ a b, exec (.putidx a b) s = Spec.abort s 0x12#8) ∧
    (s.status.cfgValid = false → ∀ a, exec (.getidx a) s = Spec.abort s 0x12#8) ∧
    (s.status.freqValid = false → exec .dedup s = Spec.abort s 0x12#8) ∧
    (s.status.alphaValid = false → ∀ a, exec (.lookup a) s = Spec.abort s 0x12#8) ∧
    (s.status.alphaValid = false ∨ s.status.freqValid = false → exec .tree s = Spec.abort s 0x12#8)

/-- R304: an operand outside its range aborts with BadOperand before the command writes anything; PUTIDX and GETIDX test
their operands once a width is configured (R306). -/
def Obligations.BadOperandChangesNothing : Prop :=
  ∀ (s : State) (a b : Byte),
    (63 < a.toNat → exec (.getbit a) s = Spec.abort s 0x11#8) ∧
    (63 < a.toNat ∨ 1 < b.toNat → exec (.setbit a b) s = Spec.abort s 0x11#8) ∧
    (s.status.cfgValid = true → 2 ^ s.cw.toNat ≤ a.toNat ∨ s.cpb.toNat ≤ b.toNat →
      exec (.putidx a b) s = Spec.abort s 0x11#8) ∧
    (s.status.cfgValid = true → s.cpb.toNat ≤ a.toNat → exec (.getidx a) s = Spec.abort s 0x11#8) ∧
    (a.toNat = 0 ∨ 128 < a.toNat → exec (.width a) s = Spec.abort s 0x11#8) ∧
    (a.toNat = 0 ∨ 7 < a.toNat → exec (.geom a) s = Spec.abort s 0x11#8) ∧
    (a.toNat = 0 ∨ 7 < a.toNat → exec (.setcw a) s = Spec.abort s 0x11#8)

/-! ### System commands -/

/-- NOP (R151): the word 0x00000000 alone; only the epilogue's writes, so ERR goes to 0 and STICKY stays. -/
def Obligations.NopOnlyEndsNormally : Prop :=
  (∀ w : Word, decode w = .ok .nop ↔ w = 0x00000000#32) ∧ ∀ s : State, exec .nop s = Spec.success s

/-- CLEAR (R152): every register of the reset table but SRCLEN, BUF, every valid bit and STICKY; FREQ, ALPHA, NODE, LEAF,
IN and OUT keep their contents. No other command clears STICKY. That RESULT becomes 0 is the model's deduction (log entry
18): R152 lists it, R36 says that CLEAR leaves it. -/
def Obligations.ClearResetsRegisters : Prop :=
  (∀ w : Word, decode w = .ok .clear ↔ w = 0x00000001#32) ∧
    (∀ s : State, ∃ b : Vector Byte 8, (∀ k, (h : k < 8) → b[k] = 0) ∧
      exec .clear s = .next { s with
        status := {
          busy := false
          done := true
          err := false
          sticky := false
          freqValid := false
          alphaValid := false
          cfgValid := false
          treeValid := false
          outValid := false }
        errcode := 0
        result := 0
        cw := 0
        cpb := 0
        bpb := 0
        inlen := 0
        tlen := 0
        odl := 0
        totout := 0
        leafcount := 0
        root := 0
        ncount := 0
        emitted := 0
        outlen := 0
        buf := b }) ∧
    ∀ (i : Instr) (s t : State), exec i s = .next t → s.status.sticky = true → t.status.sticky = false → i = .clear

/-! ### BitPacker and the index encoder -/

/-- GETBIT (R162, R160): RESULT is the bit at the offset; an offset above 63 is BadOperand. -/
def Obligations.GetbitReadsOneBit : Prop :=
  (∀ (w : Word) (a : Byte), decode w = .ok (.getbit a) ↔ w = Spec.wordA 0x10 a) ∧
    ∀ (s : State) (a : Byte),
      exec (.getbit a) s =
        if a.toNat ≤ 63 then
          Spec.success { s with
            result := (((s.buf[a.toNat / 8]?.getD 0) >>> (7 - a.toNat % 8)) &&& 1#8).setWidth 32 }
        else Spec.abort s 0x11#8

/-- SETBIT (R163): one bit of BUF takes the value, every other bit of BUF and every other state stays; an offset above 63
or a value above 1 is BadOperand. -/
def Obligations.SetbitWritesOneBit : Prop :=
  (∀ (w : Word) (a b : Byte), decode w = .ok (.setbit a b) ↔ w = Spec.wordAB 0x11 a b) ∧
    ∀ (s : State) (a b : Byte),
      (63 < a.toNat ∨ 1 < b.toNat → exec (.setbit a b) s = Spec.abort s 0x11#8) ∧
      (a.toNat ≤ 63 → b.toNat ≤ 1 → ∃ buf : Vector Byte 8,
        exec (.setbit a b) s = Spec.success { s with buf := buf } ∧
          ∀ i, i < 64 → Spec.bit buf i = if i = a.toNat then b else Spec.bit s.buf i)

/-- BUFCLR (R164): BUF[0..7] all 0x00, nothing else. -/
def Obligations.BufclrClearsTheBuffer : Prop :=
  (∀ w : Word, decode w = .ok .bufclr ↔ w = 0x00000012#32) ∧
    ∀ s : State, ∃ b : Vector Byte 8, (∀ k, (h : k < 8) → b[k] = 0) ∧ exec .bufclr s = Spec.success { s with buf := b }

/-- PUTIDX (R167, R165): with a configured width, an index below 2^CW goes bit by bit, in IDX_ORDER, to the offsets
B × CW .. B × CW + CW − 1 and to no other; otherwise StateError or BadOperand. -/
def Obligations.PutidxWritesItsField : Prop :=
  (∀ (w : Word) (a b : Byte), decode w = .ok (.putidx a b) ↔ w = Spec.wordAB 0x13 a b) ∧
    ∀ (s : State) (a b : Byte),
      (s.status.cfgValid = false → exec (.putidx a b) s = Spec.abort s 0x12#8) ∧
      (s.status.cfgValid = true → 2 ^ s.cw.toNat ≤ a.toNat ∨ s.cpb.toNat ≤ b.toNat →
        exec (.putidx a b) s = Spec.abort s 0x11#8) ∧
      (s.CfgTable → s.status.cfgValid = true → a.toNat < 2 ^ s.cw.toNat → b.toNat < s.cpb.toNat →
        ∃ buf : Vector Byte 8, exec (.putidx a b) s = Spec.success { s with buf := buf } ∧
          ∀ i, i < 64 → Spec.bit buf i =
            if b.toNat * s.cw.toNat ≤ i ∧ i < b.toNat * s.cw.toNat + s.cw.toNat then
              Spec.bitByte (Spec.fieldBit s.params.idxOrder s.cw.toNat a.toNat (i - b.toNat * s.cw.toNat))
            else Spec.bit s.buf i)

/-- GETIDX (R168, R166): RESULT is the number below 2^CW whose bits, in IDX_ORDER, stand at the offsets of the position;
otherwise StateError or BadOperand. -/
def Obligations.GetidxReadsItsField : Prop :=
  (∀ (w : Word) (a : Byte), decode w = .ok (.getidx a) ↔ w = Spec.wordA 0x14 a) ∧
    ∀ (s : State) (a : Byte),
      (s.status.cfgValid = false → exec (.getidx a) s = Spec.abort s 0x12#8) ∧
      (s.status.cfgValid = true → s.cpb.toNat ≤ a.toNat → exec (.getidx a) s = Spec.abort s 0x11#8) ∧
      (s.CfgTable → s.status.cfgValid = true → a.toNat < s.cpb.toNat →
        ∃ r : Word, exec (.getidx a) s = Spec.success { s with result := r } ∧ r.toNat < 2 ^ s.cw.toNat ∧
          ∀ j, j < s.cw.toNat → Spec.bitByte (Spec.fieldBit s.params.idxOrder s.cw.toNat r.toNat j) =
            Spec.bit s.buf (a.toNat * s.cw.toNat + j))

/-- R169: an index put is read back; no bit outside its field changes; the fields of a block lie inside its bytes and
together cover every bit of them, but for byte 7 at width 7 with W7_BPB = 8. For both bit orders. -/
def Obligations.IndexFieldLaws : Prop :=
  ∀ (p : Params) (o : IdxOrder) (w : Nat), 1 ≤ w → w ≤ 7 →
    (∀ (pos v : Nat) (buf : Vector Byte 8), pos < (geometry p w).1 → v < 2 ^ w →
      getIndex o pos w (putIndex o v pos w buf) = v ∧
      (∀ i, i < 64 → i < pos * w ∨ pos * w + w ≤ i → Spec.bit (putIndex o v pos w buf) i = Spec.bit buf i) ∧
      pos * w + w ≤ 8 * (geometry p w).2) ∧
    ∀ i, i < 8 * (geometry p w).2 → (w = 7 → i < 56) → ∃ pos, pos < (geometry p w).1 ∧ pos * w ≤ i ∧ i < pos * w + w

/-! ### Geometry -/

/-- WIDTH (R193, R190): RESULT is the width of the range table's row; a length of 0 or above 128 is BadOperand. -/
def Obligations.WidthFollowsTheRangeTable : Prop :=
  (∀ (w : Word) (a : Byte), decode w = .ok (.width a) ↔ w = Spec.wordA 0x20 a) ∧
    ∀ (s : State) (a : Byte),
      (∀ r ∈ Spec.widthRows, r.1 ≤ a.toNat → a.toNat ≤ r.2.1 →
        exec (.width a) s = Spec.success { s with result := BitVec.ofNat 32 r.2.2 }) ∧
      (a.toNat = 0 ∨ 128 < a.toNat → exec (.width a) s = Spec.abort s 0x11#8)

/-- GEOM (R194, R191): RESULT is charsPerBlock + 256 × bytesPerBlock of the table's row; no register of the configuration
is written; a width of 0 or above 7 is BadOperand. -/
def Obligations.GeomFollowsTheTable : Prop :=
  (∀ (w : Word) (a : Byte), decode w = .ok (.geom a) ↔ w = Spec.wordA 0x21 a) ∧
    ∀ (s : State) (a : Byte),
      (∀ r ∈ Spec.geometryRows s.params, a.toNat = r.1 →
        exec (.geom a) s = Spec.success { s with result := BitVec.ofNat 32 (r.2.1 + 256 * r.2.2) }) ∧
      (a.toNat = 0 ∨ 7 < a.toNat → exec (.geom a) s = Spec.abort s 0x11#8)

/-- SETCW (R195, R191): CW, CPB, BPB of the table's row and CFG_VALID; BUF is not cleared; a width of 0 or above 7 is
BadOperand and changes none of them. -/
def Obligations.SetcwConfigures : Prop :=
  (∀ (w : Word) (a : Byte), decode w = .ok (.setcw a) ↔ w = Spec.wordA 0x22 a) ∧
    ∀ (s : State) (a : Byte),
      (∀ r ∈ Spec.geometryRows s.params, a.toNat = r.1 →
        exec (.setcw a) s = Spec.success { s with
          cw := BitVec.ofNat 3 r.1
          cpb := BitVec.ofNat 4 r.2.1
          bpb := BitVec.ofNat 4 r.2.2
          status := { s.status with cfgValid := true } }) ∧
      (a.toNat = 0 ∨ 7 < a.toNat → exec (.setcw a) s = Spec.abort s 0x11#8)

/-- R196: charsPerBlock × width is a multiple of 8; at widths 1 to 6 it is 8 × bytesPerBlock, at width 7 it is 56, which
is 8 × bytesPerBlock only with W7_BPB = 7; each of the rows 1 to 6 is the smallest pair with that equality. R197: every
index of an alphabet of n symbols fits the width selected for n. -/
def Obligations.GeometryLaws : Prop :=
  (∀ (p : Params) (w : Nat), 1 ≤ w → w ≤ 7 →
    (geometry p w).1 * w % 8 = 0 ∧ (w ≤ 6 → (geometry p w).1 * w = 8 * (geometry p w).2) ∧
    (w = 7 → (geometry p w).1 * w = 56 ∧ (56 = 8 * (geometry p w).2 ↔ p.w7Bpb = .seven)) ∧
    (w ≤ 6 → ∀ c b, 0 < c → c * w = 8 * b → (geometry p w).1 ≤ c ∧ (geometry p w).2 ≤ b)) ∧
  ∀ n, 1 ≤ n → n ≤ 128 →
    (∀ k, k < n → k < 2 ^ selectWidth n) ∧ (n ≤ 127 → n < 2 ^ selectWidth n) ∧ (n = 128 → n = 2 ^ selectWidth n)

/-! ### Alphabet -/

/-- SCAN (R211, R210): on success FREQ is the count of every code point of IN[0..SRCLEN), INLEN is SRCLEN, FREQ_VALID 1,
ALPHA_VALID and TREE_VALID 0. A source longer than 2^31 − 1 is InputTooLong before anything is written; the first byte
above 127 is NonAsciiInput and a failed read IoFailure, each leaving the counts of the bytes before it. That OUT, OUTLEN
and OUT_VALID stay after that IoFailure is the model's deduction (log entry 7: R34, R211 and R300 against R90). -/
def Obligations.ScanCountsTheSource : Prop :=
  (∀ w : Word, decode w = .ok .scan ↔ w = 0x00000030#32) ∧
    ∀ s : State,
      (2147483647 < s.srclen.toNat → exec .scan s = Spec.abort s 0x0A#8) ∧
      (s.srclen.toNat ≤ 2147483647 →
        (isAscii s.sourceBytes = true → s.ioSucceeds s.srclen.toNat = true →
          exec .scan s = Spec.success { s with
            freq := Spec.scanCounts s.sourceBytes
            inlen := s.srclen
            ioOutcomes := s.ioOutcomes.drop s.srclen.toNat
            status := { s.status with freqValid := true, alphaValid := false, treeValid := false } }) ∧
        (∀ k, k < s.srclen.toNat → isAscii (s.sourceBytes.take k) = true → s.ioSucceeds (k + 1) = true →
          127 < (Memory.read s.inMem k).toNat →
          exec .scan s = Spec.abort { s with
            freq := Spec.scanCounts (s.sourceBytes.take k)
            ioOutcomes := s.ioOutcomes.drop (k + 1)
            status := { s.status with freqValid := false, alphaValid := false, treeValid := false } } 0x01#8) ∧
        (∀ k, k < s.srclen.toNat → isAscii (s.sourceBytes.take k) = true → s.ioSucceeds k = true →
          s.ioOutcomes[k]? = some true →
          exec .scan s = Spec.abort { s with
            freq := Spec.scanCounts (s.sourceBytes.take k)
            ioOutcomes := s.ioOutcomes.drop (k + 1)
            status := { s.status with freqValid := false, alphaValid := false, treeValid := false } } 0x06#8))

/-- R212: the deduplicated list holds exactly the code points with a nonzero count, strictly ascending, at most 128. -/
def Obligations.DedupListsTheCodePoints : Prop :=
  ∀ f : Vector Word 128,
    (∀ c : Byte, c ∈ dedupList f ↔ c.toNat < 128 ∧ f[c.toNat]?.getD 0 ≠ 0) ∧
      (dedupList f).Pairwise (fun a b => a.toNat < b.toNat) ∧ (dedupList f).length ≤ 128

/-- DEDUP (R213): ALPHA[0..n) is the list of R212 and TLEN its length, the entries from n on are unchanged; with no count
it is EmptyInput, TLEN unchanged; without a scan StateError. -/
def Obligations.DedupBuildsTheAlphabet : Prop :=
  (∀ w : Word, decode w = .ok .dedup ↔ w = 0x00000031#32) ∧
    ∀ s : State,
      (s.status.freqValid = false → exec .dedup s = Spec.abort s 0x12#8) ∧
      (s.status.freqValid = true → (∀ c, (h : c < 128) → s.freq[c] = 0) →
        exec .dedup s = Spec.abort
          { s with status := { s.status with alphaValid := false, treeValid := false } } 0x09#8) ∧
      (s.status.freqValid = true → (∃ c, ∃ h : c < 128, s.freq[c] ≠ 0) →
        ∃ a : Vector Byte 128,
          exec .dedup s = Spec.success { s with
            alpha := a
            tlen := BitVec.ofNat 8 (dedupList s.freq).length
            status := { s.status with alphaValid := true, treeValid := false } } ∧
          a.toList.take (dedupList s.freq).length = dedupList s.freq ∧
          ∀ k, (dedupList s.freq).length ≤ k → a[k]? = s.alpha[k]?)

/-- LOOKUP (R215, R214): RESULT is the smallest position of the Alphabet that holds the code point; if none does,
CharacterNotInAlphabet; without an Alphabet StateError. -/
def Obligations.LookupFindsTheFirst : Prop :=
  (∀ (w : Word) (a : Byte), decode w = .ok (.lookup a) ↔ w = Spec.wordA 0x32 a) ∧
    ∀ (s : State) (a : Byte),
      (s.status.alphaValid = false → exec (.lookup a) s = Spec.abort s 0x12#8) ∧
      (s.status.alphaValid = true → (∀ k, k < s.tlen.toNat → s.alpha[k]? ≠ some a) →
        exec (.lookup a) s = Spec.abort s 0x04#8) ∧
      (s.status.alphaValid = true → ∀ k, k < s.tlen.toNat → s.alpha[k]? = some a →
        (∀ j, j < k → s.alpha[j]? ≠ some a) →
        exec (.lookup a) s = Spec.success { s with result := BitVec.ofNat 32 k })

/-- R216: SCAN then DEDUP, both successful, compute the Alphabet of the source and its length; every character of the
source is in the Alphabet, has a count, and LOOKUP of it succeeds. -/
def Obligations.ScanThenDedupLaw : Prop :=
  ∀ s t u : State, exec .scan s = .next t → t.errcode = 0 → exec .dedup t = .next u → u.errcode = 0 →
    u.alphabet = dedupList (Spec.scanCounts s.sourceBytes) ∧ u.inlen = s.srclen ∧
    (u.freq.toList.map BitVec.toNat).sum = u.inlen.toNat ∧
    (∀ c ∈ u.alphabet, 1 ≤ (u.freq[c.toNat]?.getD 0).toNat) ∧
    ∀ b ∈ s.sourceBytes, b ∈ u.alphabet ∧ ∃ v, exec (.lookup b) u = .next v ∧ v.errcode = 0

/-! ### Prefix tree -/

/-- R240 to R242: the nodes a build writes are the n leaves in Alphabet order, then n − 1 internal nodes, each the merge
of the two live nodes of smallest key, the smaller one on the left, its frequency their sum; the root is the last node. -/
def Obligations.TreeMergesTheTwoSmallest : Prop :=
  ∀ (f : Vector Word 128) (alphabet : List Byte), 1 ≤ alphabet.length → alphabet.length ≤ 128 →
    let t := buildTree f alphabet
    let n := alphabet.length
    t.1.length = 2 * n - 1 ∧ treeRoot t = 2 * n - 2 ∧
    (∀ k, k < n → ∃ c, alphabet[k]? = some c ∧
      t.1[k]? = some { freq := f[c.toNat]?.getD 0, left := 0xFF, right := 0xFF, sym := c, isLeaf := true }) ∧
    ∀ k, n ≤ k → k < 2 * n - 1 → ∃ x y,
      Spec.liveAt t.1 n k x ∧ Spec.liveAt t.1 n k y ∧ Spec.keyLess t.1 x y ∧
      (∀ z, Spec.liveAt t.1 n k z → z ≠ x → z ≠ y → Spec.keyLess t.1 y z) ∧
      t.1[k]? = some {
        freq := (t.1[x]?.getD default).freq + (t.1[y]?.getD default).freq
        left := BitVec.ofNat 8 x, right := BitVec.ofNat 8 y, sym := 0xFF, isLeaf := false }

/-- R244: in the nodes of a build, the in-order list of a leaf is its symbol, that of an internal node the left child's
list before the right child's. -/
def Obligations.InorderVisitsLeftFirst : Prop :=
  ∀ (f : Vector Word 128) (alphabet : List Byte), 1 ≤ alphabet.length → alphabet.length ≤ 128 →
    let nodes := (buildTree f alphabet).1
    ∀ k nd, nodes[k]? = some nd →
      inorder nodes nodes.length k =
        if nd.isLeaf then [nd.sym]
        else inorder nodes nodes.length nd.left.toNat ++ inorder nodes nodes.length nd.right.toNat

/-- R246: for a valid Alphabet with its frequencies the build writes 2n − 1 nodes, the root's frequency is INLEN, and the
leaf report is a permutation of the Alphabet, so LEAFCOUNT = TLEN and TREE never raises TreeBuildError. -/
def Obligations.TreeLeavesAreTheAlphabet : Prop :=
  ∀ s : State, s.Valid → s.status.alphaValid = true → s.status.freqValid = true →
    let t := buildTree s.freq s.alphabet
    t.1.length = 2 * s.tlen.toNat - 1 ∧ (t.1[treeRoot t]?.getD default).freq = s.inlen ∧
    (treeLeaves t).Perm s.alphabet ∧ (treeLeaves t).length = s.tlen.toNat ∧
    ∀ u, exec .tree s = .next u → u.leafcount = u.tlen ∧ u.errcode ≠ 0x02#8

/-- TREE (R245): with a valid scan and Alphabet it writes NODE[0 .. 2·TLEN − 2], LEAF[0 .. TLEN), ROOT, NCOUNT, LEAFCOUNT
and TREE_VALID and nothing else; without them StateError. -/
def Obligations.TreeStoresTheTree : Prop :=
  (∀ w : Word, decode w = .ok .tree ↔ w = 0x00000033#32) ∧
    ∀ s : State,
      (s.status.alphaValid = false ∨ s.status.freqValid = false → exec .tree s = Spec.abort s 0x12#8) ∧
      (s.Valid → s.status.alphaValid = true → s.status.freqValid = true →
        ∃ (nd : Vector Node 255) (lf : Vector Byte 128),
          exec .tree s = Spec.success { s with
            node := nd
            leaf := lf
            root := BitVec.ofNat 8 (2 * s.tlen.toNat - 2)
            ncount := BitVec.ofNat 9 (2 * s.tlen.toNat - 1)
            leafcount := s.tlen
            status := { s.status with treeValid := true } } ∧
          nd.toList.take (2 * s.tlen.toNat - 1) = (buildTree s.freq s.alphabet).1 ∧
          (∀ k, 2 * s.tlen.toNat - 1 ≤ k → nd[k]? = s.node[k]?) ∧
          lf.toList.take s.tlen.toNat = treeLeaves (buildTree s.freq s.alphabet) ∧
          ∀ k, s.tlen.toNat ≤ k → lf[k]? = s.leaf[k]?)

/-! ### Codec -/

/-- R265: the default outputDataLength is the length of the packed data at widths 1 to 6, and at width 7 with
W7_BPB = 7; at width 7 with W7_BPB = 8 an input of 10 characters gives 8. -/
def Obligations.OdlIsThePackedLength : Prop :=
  (∀ (p : Params) (w len : Nat), 1 ≤ w → w ≤ 7 → (w = 7 → p.w7Bpb = .seven) →
    odlFormula w (geometry p w).2 len = len / (geometry p w).1 * (geometry p w).2 + len % (geometry p w).1) ∧
    odlFormula 7 8 10 = 8

/-- ENCODE against the file format (R260 to R271, R118 to R126): from every state, when the host fails no I/O event,
ENCODE ends with the code the source calls for, in the order of R306, and its output is the file of the source, or
nothing on every error. -/
def Obligations.EncodeFollowsTheFormat : Prop :=
  ∀ s : State, s.outMem.wf = true → s.noIoFailure = true →
    ∃ t, exec .encode s = .next t ∧ t.errcode = (Spec.encodeText s.params s.sourceBytes).2 ∧
      t.outputBytes = (Spec.encodeText s.params s.sourceBytes).1 ∧
      t.status.outValid = ((Spec.encodeText s.params s.sourceBytes).2 == 0)

/-- ENCODE completes (R260): for a source of 1 to 2^31 − 1 ASCII bytes that passes the gain check, with no failed event,
every register and memory it writes, and what it leaves alone. The clause of a source without a packed block speaks of
instances with a TOTOUT_FN or ODL_FN other than the named ones: at those no such source passes the gain check (R266). -/
def Obligations.EncodeCompletes : Prop :=
  ∀ s : State, s.outMem.wf = true → s.noIoFailure = true →
    1 ≤ s.srclen.toNat → s.srclen.toNat ≤ 2147483647 → isAscii s.sourceBytes = true →
    Spec.totoutOfText s.params s.sourceBytes < s.srclen.toNat →
    let text := s.sourceBytes
    let w := Spec.widthOf text
    let g := geometry s.params w
    let file := Spec.fileOf s.params text
    ∃ t, exec .encode s = .next t ∧ t.errcode = 0 ∧
      t.status = { s.status with
        busy := false, done := true, err := false, freqValid := true, alphaValid := true, cfgValid := true,
        treeValid := true, outValid := true } ∧
      t.outputBytes = file ∧ t.outlen.toNat = file.length ∧
      (∀ pos, file.length ≤ pos → Memory.read t.outMem pos = Memory.read s.outMem pos) ∧
      t.freq = Spec.scanCounts text ∧ t.inlen = s.srclen ∧ t.alphabet = Spec.alphabetOf text ∧
      (∀ k, (Spec.alphabetOf text).length ≤ k → t.alpha[k]? = s.alpha[k]?) ∧
      t.tlen.toNat = (Spec.alphabetOf text).length ∧ t.TreeTables ∧ t.leafcount = t.tlen ∧
      (∀ k, 2 * t.tlen.toNat - 1 ≤ k → t.node[k]? = s.node[k]?) ∧ (∀ k, t.tlen.toNat ≤ k → t.leaf[k]? = s.leaf[k]?) ∧
      t.cw.toNat = w ∧ t.cpb.toNat = g.1 ∧ t.bpb.toNat = g.2 ∧ t.odl = Spec.odlOfText s.params text ∧
      t.totout.toNat = Spec.totoutOfText s.params text ∧ t.emitted = s.srclen ∧
      (text.length / g.1 = 0 → t.buf = s.buf) ∧
      (0 < text.length / g.1 → t.buf.toList = Spec.packBlock s.params.idxOrder w 8
        ((Spec.chunk text g.1 (text.length / g.1 - 1)).map (Spec.indexOf (Spec.alphabetOf text)))) ∧
      t.ioOutcomes = s.ioOutcomes.drop (2 * text.length + file.length + 1) ∧
      t.result = s.result ∧ t.srclen = s.srclen ∧ t.inMem = s.inMem ∧ t.params = s.params ∧
      t.hostActions = s.hostActions ∧ t.readData = s.readData ∧ t.draws = s.draws

/-- R266 and R309: a source that does not pass the gain check aborts with NoGainAbort before any byte is written; the
report registers keep the figures computed and OUTLEN is 0. -/
def Obligations.NoGainWritesNothing : Prop :=
  ∀ s : State, s.noIoFailure = true → 1 ≤ s.srclen.toNat → s.srclen.toNat ≤ 2147483647 →
    isAscii s.sourceBytes = true → s.srclen.toNat ≤ Spec.totoutOfText s.params s.sourceBytes →
    ∃ t, exec .encode s = .next t ∧ t.errcode = 0x03#8 ∧ t.outlen = 0 ∧ t.outMem = s.outMem ∧ t.emitted = 0 ∧
      t.status.outValid = false ∧ t.status.cfgValid = true ∧ t.buf = s.buf ∧ t.inlen = s.srclen ∧
      t.tlen.toNat = (Spec.alphabetOf s.sourceBytes).length ∧ t.leafcount = t.tlen ∧
      t.cw.toNat = Spec.widthOf s.sourceBytes ∧
      t.cpb.toNat = (geometry s.params (Spec.widthOf s.sourceBytes)).1 ∧
      t.bpb.toNat = (geometry s.params (Spec.widthOf s.sourceBytes)).2 ∧
      t.odl = Spec.odlOfText s.params s.sourceBytes ∧ t.totout = BitVec.ofNat 32 (Spec.totoutOfText s.params s.sourceBytes)

/-- ENCODE never misses a character and never fails its tree check (R246, R261, R268): from no state does it end with
CharacterNotInAlphabet, TreeBuildError or StateError. -/
def Obligations.EncodeNeverMissesACharacter : Prop :=
  ∀ s t : State, exec .encode s = .next t →
    t.errcode ≠ 0x04#8 ∧ t.errcode ≠ 0x02#8 ∧ t.errcode ≠ 0x12#8

/-- R281 and R336: the size of a successful ENCODE's output, its relation to TOTOUT at widths 1 to 6 with the default
functions, its bound, and the fidelity of its alphabet field. -/
def Obligations.EncodeOutputSize : Prop :=
  ∀ s t : State, s.outMem.wf = true → exec .encode s = .next t → t.errcode = 0 →
    t.outlen.toNat =
      16 + t.tlen.toNat + t.inlen.toNat / t.cpb.toNat * t.bpb.toNat + t.inlen.toNat % t.cpb.toNat ∧
    (t.cw.toNat ≤ 6 → s.params.odlFn = .remainderFormula → s.params.totoutFn = .tlenPlusOdl →
      t.outlen.toNat = 16 + t.totout.toNat) ∧
    t.outlen.toNat ≤ 16 + 128 + s.srclen.toNat ∧
    ∀ b, b ∈ (t.outputBytes.drop 16).take t.tlen.toNat ↔ b ∈ s.sourceBytes

/-- DECODE against the file format (R272 to R279): from every state and for every content of IN, when the host fails no
I/O event, DECODE ends with the code the file calls for and its output is what the file holds up to there. -/
def Obligations.DecodeFollowsTheFormat : Prop :=
  ∀ s : State, s.outMem.wf = true → s.noIoFailure = true →
    ∃ t, exec .decode s = .next t ∧ t.errcode = (Spec.decodeFile s.params s.sourceBytes).2 ∧
      t.outputBytes = (Spec.decodeFile s.params s.sourceBytes).1 ∧
      t.emitted.toNat = (Spec.decodeFile s.params s.sourceBytes).1.length ∧
      t.status.outValid = ((Spec.decodeFile s.params s.sourceBytes).2 == 0)

/-- DECODE completes (R272 to R278): for a file it can decode, with no failed event, every register and memory it writes,
the last block in BUF (R276) and the number of I/O events among them, and what it leaves alone. -/
def Obligations.DecodeCompletes : Prop :=
  ∀ s : State, s.outMem.wf = true → s.noIoFailure = true →
    Spec.headerOk s.params s.sourceBytes = true → (Spec.decodeFile s.params s.sourceBytes).2 = 0 →
    let file := s.sourceBytes
    let len := Spec.headerField s.params.hdrEndian file 0
    let table := Spec.headerField s.params.hdrEndian file 4
    let w := Spec.headerField s.params.hdrEndian file 8
    let g := geometry s.params w.toNat
    let text := (Spec.decodeFile s.params file).1
    ∃ t, exec .decode s = .next t ∧ t.errcode = 0 ∧
      t.status = { s.status with
        busy := false, done := true, err := false, freqValid := false, alphaValid := true, cfgValid := true,
        treeValid := false, outValid := true } ∧
      t.outputBytes = text ∧ text.length = len.toNat ∧ t.outlen = len ∧ t.emitted = len ∧ t.inlen = len ∧
      (∀ pos, text.length ≤ pos → Memory.read t.outMem pos = Memory.read s.outMem pos) ∧
      t.tlen.toNat = table.toNat ∧ t.alphabet = (file.drop 16).take table.toNat ∧
      (∀ k, table.toNat ≤ k → t.alpha[k]? = s.alpha[k]?) ∧
      t.odl = Spec.headerField s.params.hdrEndian file 12 ∧ t.cw.toNat = w.toNat ∧ t.cpb.toNat = g.1 ∧
      t.bpb.toNat = g.2 ∧
      (len.toNat / g.1 = 0 → t.buf = s.buf) ∧
      (0 < len.toNat / g.1 → t.buf.toList =
        (file.drop (16 + table.toNat + (len.toNat / g.1 - 1) * g.2)).take g.2 ++ List.replicate (8 - g.2) 0) ∧
      t.ioOutcomes = s.ioOutcomes.drop
        (16 + table.toNat + len.toNat / g.1 * g.2 + len.toNat % g.1 + len.toNat + 1) ∧
      t.freq = s.freq ∧ t.node = s.node ∧ t.leaf = s.leaf ∧ t.root = s.root ∧
      t.ncount = s.ncount ∧ t.leafcount = s.leafcount ∧ t.totout = s.totout ∧ t.result = s.result ∧
      t.srclen = s.srclen ∧ t.inMem = s.inMem ∧ t.params = s.params ∧ t.hostActions = s.hostActions ∧
      t.readData = s.readData ∧ t.draws = s.draws

/-- R273 and R314: a source too short for its header or its alphabet, or a header field out of range, is CorruptHeader
with no byte written and no Alphabet or width left valid. -/
def Obligations.CorruptHeaderWritesNothing : Prop :=
  ∀ s : State, s.noIoFailure = true → Spec.headerOk s.params s.sourceBytes = false →
    ∃ t, exec .decode s = .next t ∧ t.errcode = 0x08#8 ∧ t.outlen = 0 ∧ t.emitted = 0 ∧ t.outMem = s.outMem ∧
      t.status.alphaValid = false ∧ t.status.cfgValid = false ∧ t.status.freqValid = false ∧
      t.status.treeValid = false ∧ t.status.outValid = false ∧ t.inlen = s.inlen ∧ t.tlen = s.tlen ∧
      t.alpha = s.alpha ∧ t.cw = s.cw ∧ t.buf = s.buf

/-- R280: the round trip. If ENCODE succeeds and its output is decoded by a core with the same parameters and no failed
event, DECODE succeeds, its output is the original source, and EMITTED = INLEN = the original SRCLEN. -/
def Obligations.RoundTrip : Prop :=
  ∀ s t u : State, s.outMem.wf = true → exec .encode s = .next t → t.errcode = 0 →
    u.params = s.params → u.srclen = t.outlen → u.sourceBytes = t.outputBytes → u.outMem.wf = true →
    u.noIoFailure = true →
    ∃ v, exec .decode u = .next v ∧ v.errcode = 0 ∧ v.status.outValid = true ∧ v.outputBytes = s.sourceBytes ∧
      v.emitted = s.srclen ∧ v.inlen = s.srclen

/-- A failed I/O event (R90, R312), against the run of the same command in which none fails and which makes exactly `n`
events. SCAN, and ENCODE and DECODE at every event but the close of an error exit, end with IoFailure whatever that run
ended with; in ENCODE and DECODE, OUTLEN then counts the appends before the failing event. The close of an error exit is
ENCODE's and DECODE's last event: when it fails, the error and all else stay as in that run (R270 and R278 say so of the
code; that OUT stays too is the model's deduction, log entry 10). Without a failed event no command ends with IoFailure;
ENCODE and DECODE have OUT_VALID 0 after it, and OUTLEN 0 when the first event failed. What the sink holds after an
IoFailure is the model's free value (log entry 6), and the statement says nothing of it. -/
def Obligations.IoFailureEndsTheCommand : Prop :=
  (∀ (s t : State) (n k : Nat) (rest : List Bool), Spec.RunsWith .scan s n t → k < n →
      ∃ u, exec .scan { s with ioOutcomes := List.replicate k false ++ true :: rest } = .next u ∧
        u.errcode = 0x06#8) ∧
    (∀ (s t : State) (n k : Nat) (rest : List Bool), Spec.RunsWith .encode s n t → k < n →
      (t.errcode = 0 ∨ k + 1 < n) →
      ∃ u, exec .encode { s with ioOutcomes := List.replicate k false ++ true :: rest } = .next u ∧
        u.errcode = 0x06#8 ∧ u.outlen.toNat = Spec.appendsIn (Spec.encodeEvents s.params s.sourceBytes) k) ∧
    (∀ (s t : State) (n k : Nat) (rest : List Bool), Spec.RunsWith .decode s n t → k < n →
      (t.errcode = 0 ∨ k + 1 < n) →
      ∃ u, exec .decode { s with ioOutcomes := List.replicate k false ++ true :: rest } = .next u ∧
        u.errcode = 0x06#8 ∧ u.outlen.toNat = Spec.appendsIn (Spec.decodeEvents s.params s.sourceBytes) k) ∧
    (∀ (i : Instr) (s t : State) (n : Nat) (rest : List Bool), i = .encode ∨ i = .decode →
      Spec.RunsWith i s n t → t.errcode ≠ 0 → 0 < n ∧
        exec i { s with ioOutcomes := List.replicate (n - 1) false ++ true :: rest } =
          .next { t with ioOutcomes := rest }) ∧
    (∀ (i : Instr) (s t : State), exec i s = .next t → s.noIoFailure = true → t.errcode ≠ 0x06#8) ∧
    (∀ (i : Instr) (s t : State), i = .encode ∨ i = .decode → exec i s = .next t → t.errcode = 0x06#8 →
      t.status.outValid = false) ∧
    ∀ s : State, s.ioOutcomes.head? = some true →
      (1 ≤ s.srclen.toNat → s.srclen.toNat ≤ 2147483647 →
        ∃ t, exec .encode s = .next t ∧ t.errcode = 0x06#8 ∧ t.outlen = 0) ∧
      (16 ≤ s.srclen.toNat → ∃ t, exec .decode s = .next t ∧ t.errcode = 0x06#8 ∧ t.outlen = 0)

/-! ### Isolation -/

/-- R81: no command reads IN at a position SRCLEN or above: what stands there changes nothing. -/
def Obligations.SourceBeyondItsLengthIsIgnored : Prop :=
  ∀ (i : Instr) (s t : State) (m : Memory), exec i s = .next t →
    (∀ pos, pos < s.srclen.toNat → Memory.read m pos = Memory.read s.inMem pos) →
    exec i { s with inMem := m } = .next { t with inMem := m }

/-- R82: the core never reads OUT: what stood there before a command changes nothing but OUT itself, and nothing at all
of the output of an ENCODE or DECODE that had no failed event. -/
def Obligations.OldOutputIsNeverRead : Prop :=
  ∀ (i : Instr) (s t : State) (m : Memory), exec i s = .next t →
    ∃ m' : Memory, exec i { s with outMem := m } = .next { t with outMem := m' } ∧
      ((i = .encode ∨ i = .decode) → s.outMem.wf = true → m.wf = true → t.errcode ≠ 0x06#8 →
        ∀ pos, pos < t.outlen.toNat → Memory.read m' pos = Memory.read t.outMem pos)

/-- R57, R61, R331: the contents of FREQ, ALPHA, NODE and LEAF that no valid bit covers (those of power-on among them)
reach no register, no valid table (FREQ_VALID's, ALPHA_VALID's or TREE_VALID's) and no output: two states alike but for
them stay alike under every command. -/
def Obligations.UncoveredTablesAreNeverTold : Prop :=
  ∀ (i : Instr) (s t : State), s.Alike t →
    ∃ s' t', exec i s = .next s' ∧ exec i t = .next t' ∧ s'.Alike t'

/-! ### Invariants -/

/-- Every step keeps the coherence of the record, the canonical memories and the idle core, in every state that has
them. -/
def Obligations.StepKeepsCoherence : Prop := ∀ s t : State, s.Coherent → step s = .next t → t.Coherent

/-- R57: every step keeps the validity invariants (a) to (e), in every state that has them. -/
def Obligations.StepKeepsValidity : Prop := ∀ s t : State, s.Valid → step s = .next t → t.Valid

/-- The reset state is coherent and meets the validity invariants. -/
def Obligations.ResetMeetsTheInvariants : Prop := State.reset.Coherent ∧ State.reset.Valid

/-- Every state a run reaches, from power-on of an instance with any parameters, host memories and host behaviour, is
coherent and meets the validity invariants, and no step there is refused because of BUSY. -/
def Obligations.ReachableStatesMeetTheInvariants : Prop :=
  ∀ s : State, Reachable s → s.Coherent ∧ s.Valid ∧ step s ≠ .refused .hostWhileBusy
end

