-- ==== Sys2Proof/Laws/Memory.lean ====
section
/-! SUPPORT. The laws of a byte memory: read after write, the canonical form, and lists of bytes at consecutive
positions. -/

namespace Sys2Proof.Machine

variable {m : Memory} {lo a b n : Nat} {v : Byte} {vs : List Byte}

@[simp] theorem Memory.read_nil (a : Nat) : Memory.read [] a = Config.unlistedByte := rfl

@[simp] theorem Memory.wf_nil : Memory.wf [] = true := rfl

theorem Memory.wfFrom_cons {c : Host.Cell} :
    Memory.wfFrom lo (c :: m) = true ↔
      lo ≤ c.1 ∧ c.2 ≠ Config.unlistedByte ∧ Memory.wfFrom (c.1 + 1) m = true := by
  obtain ⟨x, y⟩ := c
  simp [Memory.wfFrom, and_assoc]

/-- A canonical memory is canonical above any lower bound. -/
theorem Memory.wfFrom_mono {lo' : Nat} (hle : lo' ≤ lo) (h : Memory.wfFrom lo m = true) :
    Memory.wfFrom lo' m = true := by
  cases m with
  | nil => rfl
  | cons c m =>
    rw [Memory.wfFrom_cons] at h ⊢
    exact ⟨le_trans hle h.1, h.2⟩

theorem Memory.wf_of_wfFrom (h : Memory.wfFrom lo m = true) : m.wf = true :=
  Memory.wfFrom_mono (Nat.zero_le lo) h

/-- A position below every listed one is unlisted. -/
theorem Memory.read_below (h : Memory.wfFrom lo m = true) (ha : a < lo) :
    Memory.read m a = Config.unlistedByte := by
  induction m generalizing lo with
  | nil => rfl
  | cons c m ih =>
    obtain ⟨x, y⟩ := c
    rw [Memory.wfFrom_cons] at h
    have hx : x ≠ a := by have := h.1; simp only at this; omega
    simp only [Memory.read, hx, if_false]
    exact ih h.2.2 (by have := h.1; simp only at this ⊢; omega)

/-- A write keeps the canonical form. -/
theorem Memory.wfFrom_write (h : Memory.wfFrom lo m = true) (ha : lo ≤ a) :
    Memory.wfFrom lo (Memory.write m a v) = true := by
  induction m generalizing lo with
  | nil =>
    by_cases hv : v = Config.unlistedByte
    · simp [Memory.write, hv, Memory.wfFrom]
    · simp [Memory.write, hv, Memory.wfFrom, ha]
  | cons c m ih =>
    obtain ⟨x, y⟩ := c
    have h' := Memory.wfFrom_cons.mp h
    simp only [Memory.write]
    split_ifs with h1 h2 h3 h4
    · exact h
    · exact Memory.wfFrom_cons.mpr ⟨ha, h2, Memory.wfFrom_cons.mpr ⟨h1, h'.2⟩⟩
    · exact Memory.wfFrom_mono (by have := h'.1; simp only at this ⊢; omega) h'.2.2
    · exact Memory.wfFrom_cons.mpr ⟨ha, h4, h3 ▸ h'.2.2⟩
    · exact Memory.wfFrom_cons.mpr ⟨h'.1, h'.2.1, ih h'.2.2 (by simp only; omega)⟩

theorem Memory.write_wf (h : m.wf = true) : (Memory.write m a v).wf = true :=
  Memory.wfFrom_write h (Nat.zero_le a)

/-- Read after write to the same position. -/
@[simp] theorem Memory.read_write_same (h : m.wf = true) : Memory.read (Memory.write m a v) a = v := by
  have key : ∀ {lo : Nat} {m : Memory}, Memory.wfFrom lo m = true → Memory.read (Memory.write m a v) a = v := by
    intro lo m h
    induction m generalizing lo with
    | nil =>
      by_cases hv : v = Config.unlistedByte
      · simp [Memory.write, hv]
      · simp [Memory.write, hv, Memory.read]
    | cons c m ih =>
      obtain ⟨x, y⟩ := c
      have h' := Memory.wfFrom_cons.mp h
      simp only [Memory.write]
      split_ifs with h1 h2 h3 h4
      · rw [h2]
        exact Memory.read_below (lo := a + 1) (Memory.wfFrom_cons.mpr ⟨h1, h'.2⟩) (Nat.lt_succ_self a)
      · simp [Memory.read]
      · rw [h4]
        exact Memory.read_below h'.2.2 (by simp only; omega)
      · simp [Memory.read]
      · have hx : x ≠ a := fun hx => h3 hx.symm
        simp only [Memory.read, hx, if_false]
        exact ih h'.2.2
  exact key h

/-- A write leaves every other position alone. -/
theorem Memory.read_write_other (hne : b ≠ a) : Memory.read (Memory.write m a v) b = Memory.read m b := by
  induction m with
  | nil =>
    by_cases hv : v = Config.unlistedByte
    · simp [Memory.write, hv]
    · simp [Memory.write, hv, Memory.read, hne.symm]
  | cons c m ih =>
    obtain ⟨x, y⟩ := c
    simp only [Memory.write]
    split_ifs with h1 h2 h3 h4
    · rfl
    · simp [Memory.read, hne.symm]
    · have hx : x ≠ b := by omega
      simp [Memory.read, hx]
    · have hx : x ≠ b := by omega
      simp [Memory.read, hne.symm, hx]
    · simp only [Memory.read, ih]

theorem Memory.writeList_wf (h : m.wf = true) : (Memory.writeList m a vs).wf = true := by
  induction vs generalizing m a with
  | nil => exact h
  | cons v vs ih => exact ih (Memory.write_wf h)

theorem Memory.ofBytes_wf (vs : List Byte) : (Memory.ofBytes vs).wf = true :=
  Memory.writeList_wf Memory.wf_nil

/-- Writing a list leaves the positions outside it alone. -/
theorem Memory.read_writeList_outside (hout : b < a ∨ a + vs.length ≤ b) :
    Memory.read (Memory.writeList m a vs) b = Memory.read m b := by
  induction vs generalizing m a with
  | nil => rfl
  | cons v vs ih =>
    simp only [List.length_cons] at hout
    rw [Memory.writeList, ih (by omega), Memory.read_write_other (by omega)]

/-- Writing a list stores its bytes at consecutive positions. -/
theorem Memory.read_writeList_inside (h : m.wf = true) (hk : n < vs.length) :
    Memory.read (Memory.writeList m a vs) (a + n) = vs[n] := by
  induction vs generalizing m a n with
  | nil => simp at hk
  | cons v vs ih =>
    cases n with
    | zero =>
      show Memory.read (Memory.writeList (Memory.write m a v) (a + 1) vs) a = v
      rw [Memory.read_writeList_outside (Or.inl (by omega)), Memory.read_write_same h]
    | succ n =>
      rw [Memory.writeList, show a + (n + 1) = a + 1 + n by omega, List.getElem_cons_succ]
      exact ih (Memory.write_wf h) (by simpa using hk)

@[simp] theorem Memory.readList_length (m : Memory) (a n : Nat) : (Memory.readList m a n).length = n := by
  simp [Memory.readList]

theorem Memory.getElem_readList {k : Nat} (hk : k < (Memory.readList m a n).length) :
    (Memory.readList m a n)[k] = Memory.read m (a + k) := by
  simp [Memory.readList]

/-- Reading one more byte at the end. -/
theorem Memory.readList_succ (m : Memory) (a n : Nat) :
    Memory.readList m a (n + 1) = Memory.readList m a n ++ [Memory.read m (a + n)] := by
  simp [Memory.readList, List.range_succ]

/-- Reading back the list just written. -/
theorem Memory.readList_writeList (h : m.wf = true) :
    Memory.readList (Memory.writeList m a vs) a vs.length = vs := by
  apply List.ext_getElem
  · simp
  · intro k h1 h2
    rw [Memory.getElem_readList, Memory.read_writeList_inside h h2]

/-- Writing a list is writing its first part, then the rest behind it. -/
theorem Memory.writeList_append (m : Memory) (a : Nat) (vs ws : List Byte) :
    Memory.writeList m a (vs ++ ws) = Memory.writeList (Memory.writeList m a vs) (a + vs.length) ws := by
  induction vs generalizing m a with
  | nil => simp [Memory.writeList]
  | cons v vs ih =>
    simp only [List.cons_append, Memory.writeList, List.length_cons]
    rw [ih, show a + 1 + vs.length = a + (vs.length + 1) by omega]

end Sys2Proof.Machine
end

