-- ==== Sys2Proof/Laws/State.lean ====
section
/-! SUPPORT. One lemma per field per named update of State and Status, each true by rfl, so that no later proof unfolds
a record update. -/

namespace Sys2Proof.Machine

/-! ### Status.start -/

@[simp] theorem Status.start_busy (st : Status) : (st.start).busy = true := rfl
@[simp] theorem Status.start_done (st : Status) : (st.start).done = st.done := rfl
@[simp] theorem Status.start_err (st : Status) : (st.start).err = st.err := rfl
@[simp] theorem Status.start_sticky (st : Status) : (st.start).sticky = st.sticky := rfl
@[simp] theorem Status.start_freqValid (st : Status) : (st.start).freqValid = st.freqValid := rfl
@[simp] theorem Status.start_alphaValid (st : Status) : (st.start).alphaValid = st.alphaValid := rfl
@[simp] theorem Status.start_cfgValid (st : Status) : (st.start).cfgValid = st.cfgValid := rfl
@[simp] theorem Status.start_treeValid (st : Status) : (st.start).treeValid = st.treeValid := rfl
@[simp] theorem Status.start_outValid (st : Status) : (st.start).outValid = st.outValid := rfl

/-! ### Status.finish -/

@[simp] theorem Status.finish_busy (st : Status) (code : BitVec 8) : (st.finish code).busy = false := rfl
@[simp] theorem Status.finish_done (st : Status) (code : BitVec 8) : (st.finish code).done = true := rfl
@[simp] theorem Status.finish_err (st : Status) (code : BitVec 8) : (st.finish code).err = (code != 0) := rfl
@[simp] theorem Status.finish_sticky (st : Status) (code : BitVec 8) : (st.finish code).sticky = (st.sticky || code != 0) := rfl
@[simp] theorem Status.finish_freqValid (st : Status) (code : BitVec 8) : (st.finish code).freqValid = st.freqValid := rfl
@[simp] theorem Status.finish_alphaValid (st : Status) (code : BitVec 8) : (st.finish code).alphaValid = st.alphaValid := rfl
@[simp] theorem Status.finish_cfgValid (st : Status) (code : BitVec 8) : (st.finish code).cfgValid = st.cfgValid := rfl
@[simp] theorem Status.finish_treeValid (st : Status) (code : BitVec 8) : (st.finish code).treeValid = st.treeValid := rfl
@[simp] theorem Status.finish_outValid (st : Status) (code : BitVec 8) : (st.finish code).outValid = st.outValid := rfl

/-! ### Status.cleared -/

@[simp] theorem Status.cleared_busy (st : Status) : (st.cleared).busy = st.busy := rfl
@[simp] theorem Status.cleared_done (st : Status) : (st.cleared).done = st.done := rfl
@[simp] theorem Status.cleared_err (st : Status) : (st.cleared).err = st.err := rfl
@[simp] theorem Status.cleared_sticky (st : Status) : (st.cleared).sticky = false := rfl
@[simp] theorem Status.cleared_freqValid (st : Status) : (st.cleared).freqValid = false := rfl
@[simp] theorem Status.cleared_alphaValid (st : Status) : (st.cleared).alphaValid = false := rfl
@[simp] theorem Status.cleared_cfgValid (st : Status) : (st.cleared).cfgValid = false := rfl
@[simp] theorem Status.cleared_treeValid (st : Status) : (st.cleared).treeValid = false := rfl
@[simp] theorem Status.cleared_outValid (st : Status) : (st.cleared).outValid = false := rfl

/-! ### Status.scanStart -/

@[simp] theorem Status.scanStart_busy (st : Status) : (st.scanStart).busy = st.busy := rfl
@[simp] theorem Status.scanStart_done (st : Status) : (st.scanStart).done = st.done := rfl
@[simp] theorem Status.scanStart_err (st : Status) : (st.scanStart).err = st.err := rfl
@[simp] theorem Status.scanStart_sticky (st : Status) : (st.scanStart).sticky = st.sticky := rfl
@[simp] theorem Status.scanStart_freqValid (st : Status) : (st.scanStart).freqValid = false := rfl
@[simp] theorem Status.scanStart_alphaValid (st : Status) : (st.scanStart).alphaValid = false := rfl
@[simp] theorem Status.scanStart_cfgValid (st : Status) : (st.scanStart).cfgValid = st.cfgValid := rfl
@[simp] theorem Status.scanStart_treeValid (st : Status) : (st.scanStart).treeValid = false := rfl
@[simp] theorem Status.scanStart_outValid (st : Status) : (st.scanStart).outValid = st.outValid := rfl

/-! ### Status.dedupStart -/

@[simp] theorem Status.dedupStart_busy (st : Status) : (st.dedupStart).busy = st.busy := rfl
@[simp] theorem Status.dedupStart_done (st : Status) : (st.dedupStart).done = st.done := rfl
@[simp] theorem Status.dedupStart_err (st : Status) : (st.dedupStart).err = st.err := rfl
@[simp] theorem Status.dedupStart_sticky (st : Status) : (st.dedupStart).sticky = st.sticky := rfl
@[simp] theorem Status.dedupStart_freqValid (st : Status) : (st.dedupStart).freqValid = st.freqValid := rfl
@[simp] theorem Status.dedupStart_alphaValid (st : Status) : (st.dedupStart).alphaValid = false := rfl
@[simp] theorem Status.dedupStart_cfgValid (st : Status) : (st.dedupStart).cfgValid = st.cfgValid := rfl
@[simp] theorem Status.dedupStart_treeValid (st : Status) : (st.dedupStart).treeValid = false := rfl
@[simp] theorem Status.dedupStart_outValid (st : Status) : (st.dedupStart).outValid = st.outValid := rfl

/-! ### Status.decodeStart -/

@[simp] theorem Status.decodeStart_busy (st : Status) : (st.decodeStart).busy = st.busy := rfl
@[simp] theorem Status.decodeStart_done (st : Status) : (st.decodeStart).done = st.done := rfl
@[simp] theorem Status.decodeStart_err (st : Status) : (st.decodeStart).err = st.err := rfl
@[simp] theorem Status.decodeStart_sticky (st : Status) : (st.decodeStart).sticky = st.sticky := rfl
@[simp] theorem Status.decodeStart_freqValid (st : Status) : (st.decodeStart).freqValid = false := rfl
@[simp] theorem Status.decodeStart_alphaValid (st : Status) : (st.decodeStart).alphaValid = false := rfl
@[simp] theorem Status.decodeStart_cfgValid (st : Status) : (st.decodeStart).cfgValid = false := rfl
@[simp] theorem Status.decodeStart_treeValid (st : Status) : (st.decodeStart).treeValid = false := rfl
@[simp] theorem Status.decodeStart_outValid (st : Status) : (st.decodeStart).outValid = false := rfl

/-! ### State.setResult -/

@[simp] theorem State.setResult_status (s : State) (v : Word) : (s.setResult v).status = s.status := rfl
@[simp] theorem State.setResult_errcode (s : State) (v : Word) : (s.setResult v).errcode = s.errcode := rfl
@[simp] theorem State.setResult_result (s : State) (v : Word) : (s.setResult v).result = v := rfl
@[simp] theorem State.setResult_cw (s : State) (v : Word) : (s.setResult v).cw = s.cw := rfl
@[simp] theorem State.setResult_cpb (s : State) (v : Word) : (s.setResult v).cpb = s.cpb := rfl
@[simp] theorem State.setResult_bpb (s : State) (v : Word) : (s.setResult v).bpb = s.bpb := rfl
@[simp] theorem State.setResult_srclen (s : State) (v : Word) : (s.setResult v).srclen = s.srclen := rfl
@[simp] theorem State.setResult_inlen (s : State) (v : Word) : (s.setResult v).inlen = s.inlen := rfl
@[simp] theorem State.setResult_tlen (s : State) (v : Word) : (s.setResult v).tlen = s.tlen := rfl
@[simp] theorem State.setResult_odl (s : State) (v : Word) : (s.setResult v).odl = s.odl := rfl
@[simp] theorem State.setResult_totout (s : State) (v : Word) : (s.setResult v).totout = s.totout := rfl
@[simp] theorem State.setResult_leafcount (s : State) (v : Word) : (s.setResult v).leafcount = s.leafcount := rfl
@[simp] theorem State.setResult_root (s : State) (v : Word) : (s.setResult v).root = s.root := rfl
@[simp] theorem State.setResult_ncount (s : State) (v : Word) : (s.setResult v).ncount = s.ncount := rfl
@[simp] theorem State.setResult_emitted (s : State) (v : Word) : (s.setResult v).emitted = s.emitted := rfl
@[simp] theorem State.setResult_outlen (s : State) (v : Word) : (s.setResult v).outlen = s.outlen := rfl
@[simp] theorem State.setResult_buf (s : State) (v : Word) : (s.setResult v).buf = s.buf := rfl
@[simp] theorem State.setResult_freq (s : State) (v : Word) : (s.setResult v).freq = s.freq := rfl
@[simp] theorem State.setResult_alpha (s : State) (v : Word) : (s.setResult v).alpha = s.alpha := rfl
@[simp] theorem State.setResult_node (s : State) (v : Word) : (s.setResult v).node = s.node := rfl
@[simp] theorem State.setResult_leaf (s : State) (v : Word) : (s.setResult v).leaf = s.leaf := rfl
@[simp] theorem State.setResult_inMem (s : State) (v : Word) : (s.setResult v).inMem = s.inMem := rfl
@[simp] theorem State.setResult_outMem (s : State) (v : Word) : (s.setResult v).outMem = s.outMem := rfl
@[simp] theorem State.setResult_params (s : State) (v : Word) : (s.setResult v).params = s.params := rfl
@[simp] theorem State.setResult_ioOutcomes (s : State) (v : Word) : (s.setResult v).ioOutcomes = s.ioOutcomes := rfl
@[simp] theorem State.setResult_hostActions (s : State) (v : Word) : (s.setResult v).hostActions = s.hostActions := rfl
@[simp] theorem State.setResult_readData (s : State) (v : Word) : (s.setResult v).readData = s.readData := rfl
@[simp] theorem State.setResult_draws (s : State) (v : Word) : (s.setResult v).draws = s.draws := rfl

/-! ### State.setBuf -/

@[simp] theorem State.setBuf_status (s : State) (b : Vector Byte 8) : (s.setBuf b).status = s.status := rfl
@[simp] theorem State.setBuf_errcode (s : State) (b : Vector Byte 8) : (s.setBuf b).errcode = s.errcode := rfl
@[simp] theorem State.setBuf_result (s : State) (b : Vector Byte 8) : (s.setBuf b).result = s.result := rfl
@[simp] theorem State.setBuf_cw (s : State) (b : Vector Byte 8) : (s.setBuf b).cw = s.cw := rfl
@[simp] theorem State.setBuf_cpb (s : State) (b : Vector Byte 8) : (s.setBuf b).cpb = s.cpb := rfl
@[simp] theorem State.setBuf_bpb (s : State) (b : Vector Byte 8) : (s.setBuf b).bpb = s.bpb := rfl
@[simp] theorem State.setBuf_srclen (s : State) (b : Vector Byte 8) : (s.setBuf b).srclen = s.srclen := rfl
@[simp] theorem State.setBuf_inlen (s : State) (b : Vector Byte 8) : (s.setBuf b).inlen = s.inlen := rfl
@[simp] theorem State.setBuf_tlen (s : State) (b : Vector Byte 8) : (s.setBuf b).tlen = s.tlen := rfl
@[simp] theorem State.setBuf_odl (s : State) (b : Vector Byte 8) : (s.setBuf b).odl = s.odl := rfl
@[simp] theorem State.setBuf_totout (s : State) (b : Vector Byte 8) : (s.setBuf b).totout = s.totout := rfl
@[simp] theorem State.setBuf_leafcount (s : State) (b : Vector Byte 8) : (s.setBuf b).leafcount = s.leafcount := rfl
@[simp] theorem State.setBuf_root (s : State) (b : Vector Byte 8) : (s.setBuf b).root = s.root := rfl
@[simp] theorem State.setBuf_ncount (s : State) (b : Vector Byte 8) : (s.setBuf b).ncount = s.ncount := rfl
@[simp] theorem State.setBuf_emitted (s : State) (b : Vector Byte 8) : (s.setBuf b).emitted = s.emitted := rfl
@[simp] theorem State.setBuf_outlen (s : State) (b : Vector Byte 8) : (s.setBuf b).outlen = s.outlen := rfl
@[simp] theorem State.setBuf_buf (s : State) (b : Vector Byte 8) : (s.setBuf b).buf = b := rfl
@[simp] theorem State.setBuf_freq (s : State) (b : Vector Byte 8) : (s.setBuf b).freq = s.freq := rfl
@[simp] theorem State.setBuf_alpha (s : State) (b : Vector Byte 8) : (s.setBuf b).alpha = s.alpha := rfl
@[simp] theorem State.setBuf_node (s : State) (b : Vector Byte 8) : (s.setBuf b).node = s.node := rfl
@[simp] theorem State.setBuf_leaf (s : State) (b : Vector Byte 8) : (s.setBuf b).leaf = s.leaf := rfl
@[simp] theorem State.setBuf_inMem (s : State) (b : Vector Byte 8) : (s.setBuf b).inMem = s.inMem := rfl
@[simp] theorem State.setBuf_outMem (s : State) (b : Vector Byte 8) : (s.setBuf b).outMem = s.outMem := rfl
@[simp] theorem State.setBuf_params (s : State) (b : Vector Byte 8) : (s.setBuf b).params = s.params := rfl
@[simp] theorem State.setBuf_ioOutcomes (s : State) (b : Vector Byte 8) : (s.setBuf b).ioOutcomes = s.ioOutcomes := rfl
@[simp] theorem State.setBuf_hostActions (s : State) (b : Vector Byte 8) :
    (s.setBuf b).hostActions = s.hostActions := rfl
@[simp] theorem State.setBuf_readData (s : State) (b : Vector Byte 8) : (s.setBuf b).readData = s.readData := rfl
@[simp] theorem State.setBuf_draws (s : State) (b : Vector Byte 8) : (s.setBuf b).draws = s.draws := rfl

/-! ### State.setStatus -/

@[simp] theorem State.setStatus_status (s : State) (st : Status) : (s.setStatus st).status = st := rfl
@[simp] theorem State.setStatus_errcode (s : State) (st : Status) : (s.setStatus st).errcode = s.errcode := rfl
@[simp] theorem State.setStatus_result (s : State) (st : Status) : (s.setStatus st).result = s.result := rfl
@[simp] theorem State.setStatus_cw (s : State) (st : Status) : (s.setStatus st).cw = s.cw := rfl
@[simp] theorem State.setStatus_cpb (s : State) (st : Status) : (s.setStatus st).cpb = s.cpb := rfl
@[simp] theorem State.setStatus_bpb (s : State) (st : Status) : (s.setStatus st).bpb = s.bpb := rfl
@[simp] theorem State.setStatus_srclen (s : State) (st : Status) : (s.setStatus st).srclen = s.srclen := rfl
@[simp] theorem State.setStatus_inlen (s : State) (st : Status) : (s.setStatus st).inlen = s.inlen := rfl
@[simp] theorem State.setStatus_tlen (s : State) (st : Status) : (s.setStatus st).tlen = s.tlen := rfl
@[simp] theorem State.setStatus_odl (s : State) (st : Status) : (s.setStatus st).odl = s.odl := rfl
@[simp] theorem State.setStatus_totout (s : State) (st : Status) : (s.setStatus st).totout = s.totout := rfl
@[simp] theorem State.setStatus_leafcount (s : State) (st : Status) : (s.setStatus st).leafcount = s.leafcount := rfl
@[simp] theorem State.setStatus_root (s : State) (st : Status) : (s.setStatus st).root = s.root := rfl
@[simp] theorem State.setStatus_ncount (s : State) (st : Status) : (s.setStatus st).ncount = s.ncount := rfl
@[simp] theorem State.setStatus_emitted (s : State) (st : Status) : (s.setStatus st).emitted = s.emitted := rfl
@[simp] theorem State.setStatus_outlen (s : State) (st : Status) : (s.setStatus st).outlen = s.outlen := rfl
@[simp] theorem State.setStatus_buf (s : State) (st : Status) : (s.setStatus st).buf = s.buf := rfl
@[simp] theorem State.setStatus_freq (s : State) (st : Status) : (s.setStatus st).freq = s.freq := rfl
@[simp] theorem State.setStatus_alpha (s : State) (st : Status) : (s.setStatus st).alpha = s.alpha := rfl
@[simp] theorem State.setStatus_node (s : State) (st : Status) : (s.setStatus st).node = s.node := rfl
@[simp] theorem State.setStatus_leaf (s : State) (st : Status) : (s.setStatus st).leaf = s.leaf := rfl
@[simp] theorem State.setStatus_inMem (s : State) (st : Status) : (s.setStatus st).inMem = s.inMem := rfl
@[simp] theorem State.setStatus_outMem (s : State) (st : Status) : (s.setStatus st).outMem = s.outMem := rfl
@[simp] theorem State.setStatus_params (s : State) (st : Status) : (s.setStatus st).params = s.params := rfl
@[simp] theorem State.setStatus_ioOutcomes (s : State) (st : Status) : (s.setStatus st).ioOutcomes = s.ioOutcomes := rfl
@[simp] theorem State.setStatus_hostActions (s : State) (st : Status) :
    (s.setStatus st).hostActions = s.hostActions := rfl
@[simp] theorem State.setStatus_readData (s : State) (st : Status) : (s.setStatus st).readData = s.readData := rfl
@[simp] theorem State.setStatus_draws (s : State) (st : Status) : (s.setStatus st).draws = s.draws := rfl

/-! ### State.configure -/

@[simp] theorem State.configure_status (s : State) (w : Nat) :
    (s.configure w).status = { s.status with cfgValid := true } := rfl
@[simp] theorem State.configure_errcode (s : State) (w : Nat) : (s.configure w).errcode = s.errcode := rfl
@[simp] theorem State.configure_result (s : State) (w : Nat) : (s.configure w).result = s.result := rfl
@[simp] theorem State.configure_cw (s : State) (w : Nat) : (s.configure w).cw = BitVec.ofNat 3 w := rfl
@[simp] theorem State.configure_cpb (s : State) (w : Nat) :
    (s.configure w).cpb = BitVec.ofNat 4 (geometry s.params w).1 := rfl
@[simp] theorem State.configure_bpb (s : State) (w : Nat) :
    (s.configure w).bpb = BitVec.ofNat 4 (geometry s.params w).2 := rfl
@[simp] theorem State.configure_srclen (s : State) (w : Nat) : (s.configure w).srclen = s.srclen := rfl
@[simp] theorem State.configure_inlen (s : State) (w : Nat) : (s.configure w).inlen = s.inlen := rfl
@[simp] theorem State.configure_tlen (s : State) (w : Nat) : (s.configure w).tlen = s.tlen := rfl
@[simp] theorem State.configure_odl (s : State) (w : Nat) : (s.configure w).odl = s.odl := rfl
@[simp] theorem State.configure_totout (s : State) (w : Nat) : (s.configure w).totout = s.totout := rfl
@[simp] theorem State.configure_leafcount (s : State) (w : Nat) : (s.configure w).leafcount = s.leafcount := rfl
@[simp] theorem State.configure_root (s : State) (w : Nat) : (s.configure w).root = s.root := rfl
@[simp] theorem State.configure_ncount (s : State) (w : Nat) : (s.configure w).ncount = s.ncount := rfl
@[simp] theorem State.configure_emitted (s : State) (w : Nat) : (s.configure w).emitted = s.emitted := rfl
@[simp] theorem State.configure_outlen (s : State) (w : Nat) : (s.configure w).outlen = s.outlen := rfl
@[simp] theorem State.configure_buf (s : State) (w : Nat) : (s.configure w).buf = s.buf := rfl
@[simp] theorem State.configure_freq (s : State) (w : Nat) : (s.configure w).freq = s.freq := rfl
@[simp] theorem State.configure_alpha (s : State) (w : Nat) : (s.configure w).alpha = s.alpha := rfl
@[simp] theorem State.configure_node (s : State) (w : Nat) : (s.configure w).node = s.node := rfl
@[simp] theorem State.configure_leaf (s : State) (w : Nat) : (s.configure w).leaf = s.leaf := rfl
@[simp] theorem State.configure_inMem (s : State) (w : Nat) : (s.configure w).inMem = s.inMem := rfl
@[simp] theorem State.configure_outMem (s : State) (w : Nat) : (s.configure w).outMem = s.outMem := rfl
@[simp] theorem State.configure_params (s : State) (w : Nat) : (s.configure w).params = s.params := rfl
@[simp] theorem State.configure_ioOutcomes (s : State) (w : Nat) : (s.configure w).ioOutcomes = s.ioOutcomes := rfl
@[simp] theorem State.configure_hostActions (s : State) (w : Nat) : (s.configure w).hostActions = s.hostActions := rfl
@[simp] theorem State.configure_readData (s : State) (w : Nat) : (s.configure w).readData = s.readData := rfl
@[simp] theorem State.configure_draws (s : State) (w : Nat) : (s.configure w).draws = s.draws := rfl

/-! ### State.freshSink -/

@[simp] theorem State.freshSink_status (s : State) : (s.freshSink).status = { s.status with outValid := false } := rfl
@[simp] theorem State.freshSink_errcode (s : State) : (s.freshSink).errcode = s.errcode := rfl
@[simp] theorem State.freshSink_result (s : State) : (s.freshSink).result = s.result := rfl
@[simp] theorem State.freshSink_cw (s : State) : (s.freshSink).cw = s.cw := rfl
@[simp] theorem State.freshSink_cpb (s : State) : (s.freshSink).cpb = s.cpb := rfl
@[simp] theorem State.freshSink_bpb (s : State) : (s.freshSink).bpb = s.bpb := rfl
@[simp] theorem State.freshSink_srclen (s : State) : (s.freshSink).srclen = s.srclen := rfl
@[simp] theorem State.freshSink_inlen (s : State) : (s.freshSink).inlen = s.inlen := rfl
@[simp] theorem State.freshSink_tlen (s : State) : (s.freshSink).tlen = s.tlen := rfl
@[simp] theorem State.freshSink_odl (s : State) : (s.freshSink).odl = s.odl := rfl
@[simp] theorem State.freshSink_totout (s : State) : (s.freshSink).totout = s.totout := rfl
@[simp] theorem State.freshSink_leafcount (s : State) : (s.freshSink).leafcount = s.leafcount := rfl
@[simp] theorem State.freshSink_root (s : State) : (s.freshSink).root = s.root := rfl
@[simp] theorem State.freshSink_ncount (s : State) : (s.freshSink).ncount = s.ncount := rfl
@[simp] theorem State.freshSink_emitted (s : State) : (s.freshSink).emitted = 0 := rfl
@[simp] theorem State.freshSink_outlen (s : State) : (s.freshSink).outlen = 0 := rfl
@[simp] theorem State.freshSink_buf (s : State) : (s.freshSink).buf = s.buf := rfl
@[simp] theorem State.freshSink_freq (s : State) : (s.freshSink).freq = s.freq := rfl
@[simp] theorem State.freshSink_alpha (s : State) : (s.freshSink).alpha = s.alpha := rfl
@[simp] theorem State.freshSink_node (s : State) : (s.freshSink).node = s.node := rfl
@[simp] theorem State.freshSink_leaf (s : State) : (s.freshSink).leaf = s.leaf := rfl
@[simp] theorem State.freshSink_inMem (s : State) : (s.freshSink).inMem = s.inMem := rfl
@[simp] theorem State.freshSink_outMem (s : State) : (s.freshSink).outMem = s.outMem := rfl
@[simp] theorem State.freshSink_params (s : State) : (s.freshSink).params = s.params := rfl
@[simp] theorem State.freshSink_ioOutcomes (s : State) : (s.freshSink).ioOutcomes = s.ioOutcomes := rfl
@[simp] theorem State.freshSink_hostActions (s : State) : (s.freshSink).hostActions = s.hostActions := rfl
@[simp] theorem State.freshSink_readData (s : State) : (s.freshSink).readData = s.readData := rfl
@[simp] theorem State.freshSink_draws (s : State) : (s.freshSink).draws = s.draws := rfl

/-! ### State.addEmitted -/

@[simp] theorem State.addEmitted_status (s : State) (n : Nat) : (s.addEmitted n).status = s.status := rfl
@[simp] theorem State.addEmitted_errcode (s : State) (n : Nat) : (s.addEmitted n).errcode = s.errcode := rfl
@[simp] theorem State.addEmitted_result (s : State) (n : Nat) : (s.addEmitted n).result = s.result := rfl
@[simp] theorem State.addEmitted_cw (s : State) (n : Nat) : (s.addEmitted n).cw = s.cw := rfl
@[simp] theorem State.addEmitted_cpb (s : State) (n : Nat) : (s.addEmitted n).cpb = s.cpb := rfl
@[simp] theorem State.addEmitted_bpb (s : State) (n : Nat) : (s.addEmitted n).bpb = s.bpb := rfl
@[simp] theorem State.addEmitted_srclen (s : State) (n : Nat) : (s.addEmitted n).srclen = s.srclen := rfl
@[simp] theorem State.addEmitted_inlen (s : State) (n : Nat) : (s.addEmitted n).inlen = s.inlen := rfl
@[simp] theorem State.addEmitted_tlen (s : State) (n : Nat) : (s.addEmitted n).tlen = s.tlen := rfl
@[simp] theorem State.addEmitted_odl (s : State) (n : Nat) : (s.addEmitted n).odl = s.odl := rfl
@[simp] theorem State.addEmitted_totout (s : State) (n : Nat) : (s.addEmitted n).totout = s.totout := rfl
@[simp] theorem State.addEmitted_leafcount (s : State) (n : Nat) : (s.addEmitted n).leafcount = s.leafcount := rfl
@[simp] theorem State.addEmitted_root (s : State) (n : Nat) : (s.addEmitted n).root = s.root := rfl
@[simp] theorem State.addEmitted_ncount (s : State) (n : Nat) : (s.addEmitted n).ncount = s.ncount := rfl
@[simp] theorem State.addEmitted_emitted (s : State) (n : Nat) :
    (s.addEmitted n).emitted = s.emitted + BitVec.ofNat 32 n := rfl
@[simp] theorem State.addEmitted_outlen (s : State) (n : Nat) : (s.addEmitted n).outlen = s.outlen := rfl
@[simp] theorem State.addEmitted_buf (s : State) (n : Nat) : (s.addEmitted n).buf = s.buf := rfl
@[simp] theorem State.addEmitted_freq (s : State) (n : Nat) : (s.addEmitted n).freq = s.freq := rfl
@[simp] theorem State.addEmitted_alpha (s : State) (n : Nat) : (s.addEmitted n).alpha = s.alpha := rfl
@[simp] theorem State.addEmitted_node (s : State) (n : Nat) : (s.addEmitted n).node = s.node := rfl
@[simp] theorem State.addEmitted_leaf (s : State) (n : Nat) : (s.addEmitted n).leaf = s.leaf := rfl
@[simp] theorem State.addEmitted_inMem (s : State) (n : Nat) : (s.addEmitted n).inMem = s.inMem := rfl
@[simp] theorem State.addEmitted_outMem (s : State) (n : Nat) : (s.addEmitted n).outMem = s.outMem := rfl
@[simp] theorem State.addEmitted_params (s : State) (n : Nat) : (s.addEmitted n).params = s.params := rfl
@[simp] theorem State.addEmitted_ioOutcomes (s : State) (n : Nat) : (s.addEmitted n).ioOutcomes = s.ioOutcomes := rfl
@[simp] theorem State.addEmitted_hostActions (s : State) (n : Nat) : (s.addEmitted n).hostActions = s.hostActions := rfl
@[simp] theorem State.addEmitted_readData (s : State) (n : Nat) : (s.addEmitted n).readData = s.readData := rfl
@[simp] theorem State.addEmitted_draws (s : State) (n : Nat) : (s.addEmitted n).draws = s.draws := rfl

/-! ### State.finish -/

@[simp] theorem State.finish_status (s : State) (code : BitVec 8) : (s.finish code).status = s.status.finish code := rfl
@[simp] theorem State.finish_errcode (s : State) (code : BitVec 8) : (s.finish code).errcode = code := rfl
@[simp] theorem State.finish_result (s : State) (code : BitVec 8) : (s.finish code).result = s.result := rfl
@[simp] theorem State.finish_cw (s : State) (code : BitVec 8) : (s.finish code).cw = s.cw := rfl
@[simp] theorem State.finish_cpb (s : State) (code : BitVec 8) : (s.finish code).cpb = s.cpb := rfl
@[simp] theorem State.finish_bpb (s : State) (code : BitVec 8) : (s.finish code).bpb = s.bpb := rfl
@[simp] theorem State.finish_srclen (s : State) (code : BitVec 8) : (s.finish code).srclen = s.srclen := rfl
@[simp] theorem State.finish_inlen (s : State) (code : BitVec 8) : (s.finish code).inlen = s.inlen := rfl
@[simp] theorem State.finish_tlen (s : State) (code : BitVec 8) : (s.finish code).tlen = s.tlen := rfl
@[simp] theorem State.finish_odl (s : State) (code : BitVec 8) : (s.finish code).odl = s.odl := rfl
@[simp] theorem State.finish_totout (s : State) (code : BitVec 8) : (s.finish code).totout = s.totout := rfl
@[simp] theorem State.finish_leafcount (s : State) (code : BitVec 8) : (s.finish code).leafcount = s.leafcount := rfl
@[simp] theorem State.finish_root (s : State) (code : BitVec 8) : (s.finish code).root = s.root := rfl
@[simp] theorem State.finish_ncount (s : State) (code : BitVec 8) : (s.finish code).ncount = s.ncount := rfl
@[simp] theorem State.finish_emitted (s : State) (code : BitVec 8) : (s.finish code).emitted = s.emitted := rfl
@[simp] theorem State.finish_outlen (s : State) (code : BitVec 8) : (s.finish code).outlen = s.outlen := rfl
@[simp] theorem State.finish_buf (s : State) (code : BitVec 8) : (s.finish code).buf = s.buf := rfl
@[simp] theorem State.finish_freq (s : State) (code : BitVec 8) : (s.finish code).freq = s.freq := rfl
@[simp] theorem State.finish_alpha (s : State) (code : BitVec 8) : (s.finish code).alpha = s.alpha := rfl
@[simp] theorem State.finish_node (s : State) (code : BitVec 8) : (s.finish code).node = s.node := rfl
@[simp] theorem State.finish_leaf (s : State) (code : BitVec 8) : (s.finish code).leaf = s.leaf := rfl
@[simp] theorem State.finish_inMem (s : State) (code : BitVec 8) : (s.finish code).inMem = s.inMem := rfl
@[simp] theorem State.finish_outMem (s : State) (code : BitVec 8) : (s.finish code).outMem = s.outMem := rfl
@[simp] theorem State.finish_params (s : State) (code : BitVec 8) : (s.finish code).params = s.params := rfl
@[simp] theorem State.finish_ioOutcomes (s : State) (code : BitVec 8) : (s.finish code).ioOutcomes = s.ioOutcomes := rfl
@[simp] theorem State.finish_hostActions (s : State) (code : BitVec 8) :
    (s.finish code).hostActions = s.hostActions := rfl
@[simp] theorem State.finish_readData (s : State) (code : BitVec 8) : (s.finish code).readData = s.readData := rfl
@[simp] theorem State.finish_draws (s : State) (code : BitVec 8) : (s.finish code).draws = s.draws := rfl

/-! ### prologue -/

@[simp] theorem prologue_status (s : State) : (prologue s).status = s.status.start := rfl
@[simp] theorem prologue_errcode (s : State) : (prologue s).errcode = s.errcode := rfl
@[simp] theorem prologue_result (s : State) : (prologue s).result = s.result := rfl
@[simp] theorem prologue_cw (s : State) : (prologue s).cw = s.cw := rfl
@[simp] theorem prologue_cpb (s : State) : (prologue s).cpb = s.cpb := rfl
@[simp] theorem prologue_bpb (s : State) : (prologue s).bpb = s.bpb := rfl
@[simp] theorem prologue_srclen (s : State) : (prologue s).srclen = s.srclen := rfl
@[simp] theorem prologue_inlen (s : State) : (prologue s).inlen = s.inlen := rfl
@[simp] theorem prologue_tlen (s : State) : (prologue s).tlen = s.tlen := rfl
@[simp] theorem prologue_odl (s : State) : (prologue s).odl = s.odl := rfl
@[simp] theorem prologue_totout (s : State) : (prologue s).totout = s.totout := rfl
@[simp] theorem prologue_leafcount (s : State) : (prologue s).leafcount = s.leafcount := rfl
@[simp] theorem prologue_root (s : State) : (prologue s).root = s.root := rfl
@[simp] theorem prologue_ncount (s : State) : (prologue s).ncount = s.ncount := rfl
@[simp] theorem prologue_emitted (s : State) : (prologue s).emitted = s.emitted := rfl
@[simp] theorem prologue_outlen (s : State) : (prologue s).outlen = s.outlen := rfl
@[simp] theorem prologue_buf (s : State) : (prologue s).buf = s.buf := rfl
@[simp] theorem prologue_freq (s : State) : (prologue s).freq = s.freq := rfl
@[simp] theorem prologue_alpha (s : State) : (prologue s).alpha = s.alpha := rfl
@[simp] theorem prologue_node (s : State) : (prologue s).node = s.node := rfl
@[simp] theorem prologue_leaf (s : State) : (prologue s).leaf = s.leaf := rfl
@[simp] theorem prologue_inMem (s : State) : (prologue s).inMem = s.inMem := rfl
@[simp] theorem prologue_outMem (s : State) : (prologue s).outMem = s.outMem := rfl
@[simp] theorem prologue_params (s : State) : (prologue s).params = s.params := rfl
@[simp] theorem prologue_ioOutcomes (s : State) : (prologue s).ioOutcomes = s.ioOutcomes := rfl
@[simp] theorem prologue_hostActions (s : State) : (prologue s).hostActions = s.hostActions := rfl
@[simp] theorem prologue_readData (s : State) : (prologue s).readData = s.readData := rfl
@[simp] theorem prologue_draws (s : State) : (prologue s).draws = s.draws := rfl

/-! ### markOutput -/

@[simp] theorem markOutput_status (s : State) : (markOutput s).status = { s.status with outValid := true } := rfl
@[simp] theorem markOutput_errcode (s : State) : (markOutput s).errcode = s.errcode := rfl
@[simp] theorem markOutput_result (s : State) : (markOutput s).result = s.result := rfl
@[simp] theorem markOutput_cw (s : State) : (markOutput s).cw = s.cw := rfl
@[simp] theorem markOutput_cpb (s : State) : (markOutput s).cpb = s.cpb := rfl
@[simp] theorem markOutput_bpb (s : State) : (markOutput s).bpb = s.bpb := rfl
@[simp] theorem markOutput_srclen (s : State) : (markOutput s).srclen = s.srclen := rfl
@[simp] theorem markOutput_inlen (s : State) : (markOutput s).inlen = s.inlen := rfl
@[simp] theorem markOutput_tlen (s : State) : (markOutput s).tlen = s.tlen := rfl
@[simp] theorem markOutput_odl (s : State) : (markOutput s).odl = s.odl := rfl
@[simp] theorem markOutput_totout (s : State) : (markOutput s).totout = s.totout := rfl
@[simp] theorem markOutput_leafcount (s : State) : (markOutput s).leafcount = s.leafcount := rfl
@[simp] theorem markOutput_root (s : State) : (markOutput s).root = s.root := rfl
@[simp] theorem markOutput_ncount (s : State) : (markOutput s).ncount = s.ncount := rfl
@[simp] theorem markOutput_emitted (s : State) : (markOutput s).emitted = s.emitted := rfl
@[simp] theorem markOutput_outlen (s : State) : (markOutput s).outlen = s.outlen := rfl
@[simp] theorem markOutput_buf (s : State) : (markOutput s).buf = s.buf := rfl
@[simp] theorem markOutput_freq (s : State) : (markOutput s).freq = s.freq := rfl
@[simp] theorem markOutput_alpha (s : State) : (markOutput s).alpha = s.alpha := rfl
@[simp] theorem markOutput_node (s : State) : (markOutput s).node = s.node := rfl
@[simp] theorem markOutput_leaf (s : State) : (markOutput s).leaf = s.leaf := rfl
@[simp] theorem markOutput_inMem (s : State) : (markOutput s).inMem = s.inMem := rfl
@[simp] theorem markOutput_outMem (s : State) : (markOutput s).outMem = s.outMem := rfl
@[simp] theorem markOutput_params (s : State) : (markOutput s).params = s.params := rfl
@[simp] theorem markOutput_ioOutcomes (s : State) : (markOutput s).ioOutcomes = s.ioOutcomes := rfl
@[simp] theorem markOutput_hostActions (s : State) : (markOutput s).hostActions = s.hostActions := rfl
@[simp] theorem markOutput_readData (s : State) : (markOutput s).readData = s.readData := rfl
@[simp] theorem markOutput_draws (s : State) : (markOutput s).draws = s.draws := rfl

end Sys2Proof.Machine
end

