-- ==== Sys2Proof/Laws/Ops.lean ====
section
/-! SUPPORT. For each shared operation, once, everything it can do: how a body goes on, the I/O events, appends to OUT,
the close, the command cycle. Later proofs cite these instead of unfolding the operations. -/

namespace Sys2Proof.Machine

variable {α β : Type} {s t : State} {pos n : Nat}

/-! ### Going on with a body -/

@[simp] theorem Res.andThen_ok (a : α) (s : State) (f : α → State → Res β) : (Res.ok a s).andThen f = f a s := rfl

@[simp] theorem Res.andThen_raise (e : ErrKind) (s : State) (f : α → State → Res β) :
    (Res.raise e s).andThen f = Res.raise e s := rfl

/-- A body that succeeds succeeded in both parts. -/
theorem Res.andThen_eq_ok {r : Res α} {f : α → State → Res β} {b : β} :
    r.andThen f = .ok b t ↔ ∃ a s, r = .ok a s ∧ f a s = .ok b t := by
  cases r with
  | ok a s =>
    constructor
    · intro h; exact ⟨a, s, rfl, h⟩
    · rintro ⟨a', s', h1, h2⟩; cases h1; exact h2
  | raise e s =>
    constructor
    · intro h; cases h
    · rintro ⟨_, _, h1, _⟩; cases h1

/-- A body that raises raised in the first part, or in the second after the first succeeded. -/
theorem Res.andThen_eq_raise {r : Res α} {f : α → State → Res β} {e : ErrKind} :
    r.andThen f = .raise e t ↔ r = .raise e t ∨ ∃ a s, r = .ok a s ∧ f a s = .raise e t := by
  cases r with
  | ok a s =>
    constructor
    · intro h; exact Or.inr ⟨a, s, rfl, h⟩
    · rintro (h | ⟨a', s', h1, h2⟩)
      · cases h
      · cases h1; exact h2
  | raise e' s =>
    constructor
    · intro h; cases h; exact Or.inl rfl
    · rintro (h | ⟨_, _, h1, _⟩)
      · cases h; rfl
      · cases h1

theorem Res.andThen_assoc {γ : Type} (r : Res α) (f : α → State → Res β) (g : β → State → Res γ) :
    (r.andThen f).andThen g = r.andThen fun a s => (f a s).andThen g := by
  cases r <;> rfl

@[simp] theorem Res.state_ok (a : α) (s : State) : (Res.ok a s).state = s := rfl

@[simp] theorem Res.state_raise (e : ErrKind) (s : State) : (Res.raise (α := α) e s).state = s := rfl

/-- What every part of a body keeps, the whole body keeps. -/
theorem Res.andThen_keeps {P : State → Prop} {r : Res α} {f : α → State → Res β} (hr : P r.state)
    (hf : ∀ a s, r = .ok a s → P s → P (f a s).state) : P (r.andThen f).state := by
  cases r with
  | ok a s => exact hf a s rfl hr
  | raise e s => exact hr

/-! ### I/O events -/

/-- One event uses up the host's next choice and changes nothing else (R90). -/
theorem takeIo_eq (s : State) :
    takeIo s = (s.ioOutcomes.headD false, { s with ioOutcomes := s.ioOutcomes.tail }) := by
  unfold takeIo
  cases h : s.ioOutcomes with
  | nil => cases s; simp_all
  | cons f rest => simp

@[simp] theorem takeIo_fst (s : State) : (takeIo s).1 = s.ioOutcomes.headD false := by rw [takeIo_eq]

@[simp] theorem takeIo_snd (s : State) : (takeIo s).2 = { s with ioOutcomes := s.ioOutcomes.tail } := by
  rw [takeIo_eq]

/-- A read of IN: IoFailure if the host fails the event, else the byte; only the host's choice is used up (R90, R91). -/
theorem readIn_eq (pos : Nat) (s : State) :
    readIn pos s =
      if s.ioOutcomes.headD false then .raise .ioFailure { s with ioOutcomes := s.ioOutcomes.tail }
      else .ok (Memory.read s.inMem pos) { s with ioOutcomes := s.ioOutcomes.tail } := by
  unfold readIn
  rw [takeIo_eq]
  cases s.ioOutcomes.headD false <;> simp

/-- An append of one byte: IoFailure with nothing appended if the host fails the event, else the byte stands at position
OUTLEN and OUTLEN is one more (R13, R90). -/
theorem outByte_eq (b : Byte) (s : State) :
    outByte b s =
      if s.ioOutcomes.headD false then .raise .ioFailure { s with ioOutcomes := s.ioOutcomes.tail }
      else .ok () { s with
        ioOutcomes := s.ioOutcomes.tail
        outMem := Memory.write s.outMem s.outlen.toNat b
        outlen := s.outlen + 1 } := by
  unfold outByte
  rw [takeIo_eq]
  cases s.ioOutcomes.headD false <;> simp

/-- An append writes OUT, OUTLEN and the host's choices, nothing else. -/
theorem outAppend_frame (bs : List Byte) (s : State) :
    ∃ m len io, (outAppend bs s).state = { s with outMem := m, outlen := len, ioOutcomes := io } := by
  induction bs generalizing s with
  | nil => exact ⟨s.outMem, s.outlen, s.ioOutcomes, rfl⟩
  | cons b bs ih =>
    rw [outAppend, outByte_eq]
    split_ifs
    · exact ⟨s.outMem, s.outlen, _, rfl⟩
    · obtain ⟨m, len, io, h⟩ := ih { s with
        ioOutcomes := s.ioOutcomes.tail
        outMem := Memory.write s.outMem s.outlen.toNat b
        outlen := s.outlen + 1 }
      exact ⟨m, len, io, h⟩

/-- An append keeps OUT canonical. -/
theorem outAppend_wf (bs : List Byte) (h : s.outMem.wf = true) : (outAppend bs s).state.outMem.wf = true := by
  induction bs generalizing s with
  | nil => exact h
  | cons b bs ih =>
    rw [outAppend, outByte_eq]
    split_ifs
    · exact h
    · exact ih (s := { s with
        ioOutcomes := s.ioOutcomes.tail
        outMem := Memory.write s.outMem s.outlen.toNat b
        outlen := s.outlen + 1 }) (Memory.write_wf h)

/-- With every event successful, an append puts the bytes at OUTLEN on and moves OUTLEN behind them (R13). -/
theorem outAppend_success (bs : List Byte) (s : State) (hio : (s.ioOutcomes.take bs.length).all (fun f => !f) = true)
    (hlen : s.outlen.toNat + bs.length < 2 ^ 32) :
    outAppend bs s = .ok () { s with
      outMem := Memory.writeList s.outMem s.outlen.toNat bs
      outlen := s.outlen + BitVec.ofNat 32 bs.length
      ioOutcomes := s.ioOutcomes.drop bs.length } := by
  induction bs generalizing s with
  | nil => simp [outAppend, Memory.writeList]
  | cons b bs ih =>
    have hhead : s.ioOutcomes.headD false = false := by
      cases h : s.ioOutcomes with
      | nil => rfl
      | cons f rest => rw [h] at hio; simp at hio; simpa using hio.1
    have htail : (s.ioOutcomes.tail.take bs.length).all (fun f => !f) = true := by
      cases h : s.ioOutcomes with
      | nil => simp
      | cons f rest => rw [h] at hio; simp at hio ⊢; exact hio.2
    have hnext : (s.outlen + 1).toNat = s.outlen.toNat + 1 := by
      simp only [List.length_cons] at hlen
      rw [BitVec.toNat_add, Nat.mod_eq_of_lt]
      · rfl
      · simp only [BitVec.ofNat_eq_ofNat, BitVec.toNat_ofNat]; omega
    rw [outAppend, outByte_eq, hhead]
    simp only [Bool.false_eq_true, if_false, Res.andThen_ok]
    rw [ih _ htail (by simp only [hnext]; simp only [List.length_cons] at hlen; omega)]
    simp only [hnext, Memory.writeList, List.length_cons, Res.ok.injEq, true_and, List.drop_tail]
    congr 1
    rw [BitVec.add_assoc, show (1 : Word) = BitVec.ofNat 32 1 from rfl, ← BitVec.ofNat_add, Nat.add_comm]

/-- The close uses up one event and changes only what the host chose (R270, R278). -/
theorem closeSink_state (r : Res Unit) :
    (closeSink r).state = { r.state with ioOutcomes := r.state.ioOutcomes.tail } := by
  cases r with
  | ok u s =>
    unfold closeSink
    simp only [takeIo_eq]
    cases s.ioOutcomes.headD false <;> rfl
  | raise e s => simp [closeSink]

/-- The close of an error exit keeps the error (R270). -/
theorem closeSink_raise (e : ErrKind) (s : State) :
    closeSink (.raise e s) = .raise e { s with ioOutcomes := s.ioOutcomes.tail } := by
  simp [closeSink]

/-- Spoiling the sink changes OUT and the draw counter at most. -/
theorem spoilSink_frame (r : Res Unit) :
    ∃ m d, (spoilSink r).state = { r.state with outMem := m, draws := d } := by
  cases r with
  | ok u s => exact ⟨s.outMem, s.draws, rfl⟩
  | raise e s => cases e <;> exact ⟨_, _, rfl⟩

/-- Spoiling the sink does not change how a body ends. -/
theorem spoilSink_ok (u : Unit) (s : State) : spoilSink (.ok u s) = .ok u s := rfl

theorem spoilSink_raise_other (e : ErrKind) (s : State) (he : e ≠ .ioFailure) :
    spoilSink (.raise e s) = .raise e s := by
  cases e <;> first | rfl | exact absurd rfl he

/-- Spoiling the sink keeps OUT canonical. -/
theorem spoilSink_wf {r : Res Unit} (h : r.state.outMem.wf = true) : (spoilSink r).state.outMem.wf = true := by
  cases r with
  | ok u s => exact h
  | raise e s => cases e <;> first | exact Memory.ofBytes_wf _ | exact h

/-! ### The command cycle -/

/-- A command always ends in a next state: the state its body ended in, with the end recorded (R150, R319). -/
theorem runCommand_eq (body : State → Res Unit) (s : State) :
    runCommand body s = .next (epilogue (body (prologue s))) := rfl

@[simp] theorem epilogue_ok (u : Unit) (s : State) : epilogue (.ok u s) = s.finish 0 := rfl

@[simp] theorem epilogue_raise (e : ErrKind) (s : State) : epilogue (.raise e s) = s.finish e.code := rfl

/-- The code a body's end records. -/
theorem epilogue_eq (r : Res Unit) :
    epilogue r = r.state.finish (match r with | .ok _ _ => 0 | .raise e _ => e.code) := by
  cases r <;> rfl

/-- No error kind has the code 0 of success (R301). -/
theorem ErrKind.code_ne_zero (e : ErrKind) : e.code ≠ 0 := by
  cases e <;> decide

/-- The codes of R301 tell the kinds apart. -/
theorem ErrKind.code_injective {e f : ErrKind} (h : e.code = f.code) : e = f := by
  cases e <;> cases f <;> first | rfl | (exact absurd h (by decide))

/-- The prologue's BUSY is gone after the epilogue. -/
@[simp] theorem Status.finish_start (st : Status) (code : BitVec 8) : st.start.finish code = st.finish code := rfl

/-- Every command answers a next state (R319). -/
theorem exec_next (i : Instr) (s : State) : ∃ t, exec i s = .next t := by
  cases i <;> exact ⟨_, rfl⟩

/-! ### Writing a list into an internal memory -/

theorem writeFrom_getElem? {γ : Type} {k : Nat} (v : Vector γ n) (start : Nat) (xs : List γ) :
    (writeFrom v start xs)[k]? =
      if start ≤ k ∧ k < start + xs.length ∧ k < n then xs[k - start]? else v[k]? := by
  induction xs generalizing v start with
  | nil =>
    have : ¬(start ≤ k ∧ k < start + ([] : List γ).length ∧ k < n) := by simp; omega
    rw [if_neg this]; rfl
  | cons x xs ih =>
    rw [writeFrom, ih]
    by_cases h1 : start + 1 ≤ k ∧ k < start + 1 + xs.length ∧ k < n
    · rw [if_pos h1, if_pos (by simp only [List.length_cons]; omega)]
      rw [show k - start = (k - (start + 1)) + 1 by omega, List.getElem?_cons_succ]
    · rw [if_neg h1, Vector.getElem?_setIfInBounds]
      by_cases h2 : start = k
      · subst h2
        by_cases h3 : start < n
        · simp [h3]
        · have : v[start]? = none := by simp; omega
          simp [h3]
      · rw [if_neg h2, if_neg (by simp only [List.length_cons]; omega)]

/-- Entries outside the list are kept. -/
theorem writeFrom_outside {γ : Type} {k : Nat} (v : Vector γ n) (start : Nat) (xs : List γ)
    (h : k < start ∨ start + xs.length ≤ k) : (writeFrom v start xs)[k]? = v[k]? := by
  rw [writeFrom_getElem?, if_neg (by omega)]

/-- The first entries are the list, where it fits. -/
theorem writeFrom_take {γ : Type} (v : Vector γ n) (xs : List γ) (h : xs.length ≤ n) :
    (writeFrom v 0 xs).toList.take xs.length = xs := by
  apply List.ext_getElem?
  intro k
  by_cases hk : k < xs.length
  · have := writeFrom_getElem? (k := k) v 0 xs
    rw [if_pos ⟨Nat.zero_le k, by omega, by omega⟩] at this
    rw [List.getElem?_take_of_lt hk]
    simpa using this
  · rw [List.getElem?_eq_none (by simp; omega), List.getElem?_eq_none (by omega)]

end Sys2Proof.Machine
end

