-- ==== Sys2Proof/Laws/BitPacker.lean ====
section
/-! SUPPORT. The laws of the block buffer: a bit read after a bit written, and what the index encoder touches. -/

namespace Sys2Proof.Machine

variable {buf : Vector Byte 8} {i j n p w : Nat} {b : Bool}

/-- The mask of a bit position of a byte. -/
theorem getLsbD_oneBit {k l : Nat} (hk : k < 8) : (1#8 <<< l).getLsbD k = decide (k = l) := by
  simp only [BitVec.getLsbD_shiftLeft, BitVec.getLsbD_one]
  by_cases h : k = l
  · subst h; simp [hk]
  · by_cases h' : k < l
    · simp [h, h']
    · have : k - l ≠ 0 := by omega
      simp [h, h', this]

/-- The byte `setBit` leaves at a byte index (R161). -/
theorem setBit_getElem? {k : Nat} (hi : i < 64) :
    (setBit buf i b)[k]? =
      if k = i / 8 then
        some ((buf[i / 8]?.getD 0 &&& ~~~(1#8 <<< (7 - i % 8))) ||| if b then 1#8 <<< (7 - i % 8) else 0#8)
      else buf[k]? := by
  unfold setBit
  simp only [Vector.getElem?_setIfInBounds]
  by_cases h : k = i / 8
  · subst h; rw [if_pos rfl, if_pos rfl, if_pos (by omega)]
  · rw [if_neg (fun h' => h h'.symm), if_neg h]

/-- A bit read after a bit written: the value at its own offset, everything else as before (R160, R161). -/
theorem getBit_setBit (hi : i < 64) : getBit (setBit buf i b) j = if j = i then b else getBit buf j := by
  unfold getBit
  rw [setBit_getElem? hi]
  by_cases hbyte : j / 8 = i / 8
  · rw [if_pos hbyte, Option.getD_some, hbyte]
    have hk : 7 - j % 8 < 8 := by omega
    simp only [BitVec.getLsbD_or, BitVec.getLsbD_and, BitVec.getLsbD_not, hk, decide_true, Bool.true_and,
      getLsbD_oneBit hk]
    by_cases hj : j = i
    · subst hj; cases b <;> simp [getLsbD_oneBit hk]
    · have hne : ¬(7 - j % 8 = 7 - i % 8) := by omega
      cases b <;> simp [hj, hne, getLsbD_oneBit hk]
  · have hj : j ≠ i := by rintro rfl; exact hbyte rfl
    rw [if_neg hbyte, if_neg hj]

theorem getBit_setBit_same (hi : i < 64) : getBit (setBit buf i b) i = b := by
  rw [getBit_setBit hi, if_pos rfl]

theorem getBit_setBit_other (hi : i < 64) (hj : j ≠ i) : getBit (setBit buf i b) j = getBit buf j := by
  rw [getBit_setBit hi, if_neg hj]

/-- What `n` bits of a field leave at an offset: inside them the bit of the value, elsewhere what was there (R165). -/
theorem getBit_putBits (f : Nat → Bool) (start : Nat) (hn : start + n ≤ 64) :
    getBit ((List.range n).foldl (fun b k => setBit b (start + k) (f k)) buf) j =
      if start ≤ j ∧ j < start + n then f (j - start) else getBit buf j := by
  induction n with
  | zero => simp only [List.range_zero, List.foldl_nil]; rw [if_neg (by omega)]
  | succ n ih =>
    rw [List.range_succ, List.foldl_append, List.foldl_cons, List.foldl_nil, getBit_setBit (by omega), ih (by omega)]
    by_cases h : j = start + n
    · subst h; rw [if_pos rfl, if_pos (by omega)]; congr 1; omega
    · rw [if_neg h]
      by_cases h2 : start ≤ j ∧ j < start + n
      · rw [if_pos h2, if_pos (by omega)]
      · rw [if_neg h2, if_neg (by omega)]

/-- `putIndex` writes the bits of its field and no other (R165). -/
theorem getBit_putIndex (o : IdxOrder) (v : Nat) (hp : p * w + w ≤ 64) :
    getBit (putIndex o v p w buf) j =
      if p * w ≤ j ∧ j < p * w + w then v.testBit (fieldWeight o w (j - p * w)) else getBit buf j :=
  getBit_putBits (fun k => v.testBit (fieldWeight o w k)) (p * w) hp

/-- The model's bit and R13's `BUF.bit` are one: the pseudocode's shift and mask give the bit as a number. -/
theorem shift_and_one (x : Byte) (k : Nat) : (x >>> k) &&& 1#8 = if x.getLsbD k then 1#8 else 0#8 := by
  apply BitVec.eq_of_getLsbD_eq
  intro l hl
  simp only [BitVec.getLsbD_and, BitVec.getLsbD_ushiftRight, BitVec.getLsbD_one]
  by_cases h0 : l = 0
  · subst h0; cases x.getLsbD k <;> simp
  · cases x.getLsbD k <;> simp [h0]

end Sys2Proof.Machine
end

