-- ==== Sys2Proof/Laws/Codec.lean ====
section
/-! SUPPORT. What each loop of the commands can change: the state it ends in is the state it began with, but for the
fields named. -/

namespace Sys2Proof.Machine

/-- SCAN's loop writes FREQ and uses up I/O choices (R211). -/
theorem scanLoop_frame (n i : Nat) (s : State) :
    ∃ f io, (scanLoop n i s).state = { s with freq := f, ioOutcomes := io } := by
  induction n generalizing i s with
  | zero => exact ⟨s.freq, s.ioOutcomes, rfl⟩
  | succ n ih =>
    rw [scanLoop, readIn_eq]
    split_ifs with h
    · exact ⟨s.freq, _, rfl⟩
    · simp only [Res.andThen_ok]
      split_ifs
      · exact ⟨s.freq, _, rfl⟩
      · obtain ⟨f, io, h⟩ := ih (i + 1) { s with
          ioOutcomes := s.ioOutcomes.tail
          freq := bumpFreq s.freq (Memory.read s.inMem i).toNat }
        exact ⟨f, io, h⟩

/-- SCAN writes FREQ, INLEN, the valid bits and uses up I/O choices (R211). -/
theorem bodyScan_frame (s : State) :
    ∃ f len io st, (bodyScan s).state = { s with freq := f, inlen := len, ioOutcomes := io, status := st } := by
  unfold bodyScan
  split_ifs
  · exact ⟨s.freq, s.inlen, s.ioOutcomes, s.status, rfl⟩
  · obtain ⟨f, io, h⟩ := scanLoop_frame s.srclen.toNat 0
      { s with status := s.status.scanStart, freq := Vector.replicate 128 0 }
    revert h
    cases scanLoop s.srclen.toNat 0 { s with status := s.status.scanStart, freq := Vector.replicate 128 0 } with
    | ok u s' => intro h; simp only [Res.state_ok] at h; subst h; exact ⟨f, _, io, _, rfl⟩
    | raise e s' => intro h; simp only [Res.state_raise] at h; subst h; exact ⟨f, _, io, _, rfl⟩

/-- DEDUP writes ALPHA, TLEN and the valid bits (R213). -/
theorem bodyDedup_frame (s : State) :
    ∃ a n st, (bodyDedup s).state = { s with alpha := a, tlen := n, status := st } := by
  unfold bodyDedup
  split_ifs
  · exact ⟨s.alpha, s.tlen, s.status, rfl⟩
  · by_cases h : (dedupList s.freq).length = 0
    · simp only [h, if_true]; exact ⟨_, s.tlen, _, rfl⟩
    · simp only [h, if_false]; exact ⟨_, _, _, rfl⟩

/-- TREE writes NODE, LEAF, ROOT, NCOUNT, LEAFCOUNT and TREE_VALID (R245). -/
theorem bodyTree_frame (s : State) :
    ∃ nd lf r nc lc st, (bodyTree s).state =
      { s with node := nd, leaf := lf, root := r, ncount := nc, leafcount := lc, status := st } := by
  unfold bodyTree
  split_ifs
  · exact ⟨s.node, s.leaf, s.root, s.ncount, s.leafcount, s.status, rfl⟩
  · by_cases h : BitVec.ofNat 8 (treeLeaves (buildTree s.freq s.alphabet)).length = s.tlen
    · simp only [h, ne_eq, not_true, if_false]; exact ⟨_, _, _, _, _, _, rfl⟩
    · simp only [h, ne_eq, not_false_eq_true, if_true]; exact ⟨_, _, _, _, _, _, rfl⟩

/-- The gain check writes CW, CPB, BPB, ODL, TOTOUT and CFG_VALID (R264 to R266). -/
theorem encodeGain_frame (s : State) :
    (encodeGain s).state = { s.configure (selectWidth s.tlen.toNat) with
      odl := odlOf s.params (selectWidth s.tlen.toNat) (s.configure (selectWidth s.tlen.toNat)).bpb.toNat s.inlen.toNat
      totout := BitVec.ofNat 32 (totoutOf s.params s.tlen.toNat
        (odlOf s.params (selectWidth s.tlen.toNat) (s.configure (selectWidth s.tlen.toNat)).bpb.toNat
          s.inlen.toNat).toNat) } := by
  unfold encodeGain
  simp only
  split_ifs <;> rfl

/-- One chunk writes BUF and uses up I/O choices (R268). -/
theorem encodeChars_frame (n pos p : Nat) (s : State) :
    ∃ b io, (encodeChars n pos p s).state = { s with buf := b, ioOutcomes := io } := by
  induction n generalizing pos p s with
  | zero => exact ⟨s.buf, s.ioOutcomes, rfl⟩
  | succ n ih =>
    rw [encodeChars, readIn_eq]
    split_ifs
    · exact ⟨s.buf, _, rfl⟩
    · simp only [Res.andThen_ok]
      split
      · exact ⟨s.buf, _, rfl⟩
      · obtain ⟨b, io, h⟩ := ih (pos + 1) (p + 1) (State.setBuf { s with ioOutcomes := s.ioOutcomes.tail }
          (putIndex s.params.idxOrder (by assumption) p s.cw.toNat s.buf))
        exact ⟨b, io, h⟩

/-- The packed blocks write BUF, EMITTED, OUT and OUTLEN and use up I/O choices (R268). -/
theorem encodeBlocks_frame (n pos : Nat) (s : State) :
    ∃ b em m len io, (encodeBlocks n pos s).state =
      { s with buf := b, emitted := em, outMem := m, outlen := len, ioOutcomes := io } := by
  induction n generalizing pos s with
  | zero => exact ⟨s.buf, s.emitted, s.outMem, s.outlen, s.ioOutcomes, rfl⟩
  | succ n ih =>
    rw [encodeBlocks]
    obtain ⟨b, io, h1⟩ := encodeChars_frame s.cpb.toNat pos 0 (s.setBuf (Vector.replicate 8 0))
    revert h1
    cases encodeChars s.cpb.toNat pos 0 (s.setBuf (Vector.replicate 8 0)) with
    | raise e s1 => intro h1; simp only [Res.state_raise] at h1; subst h1; exact ⟨b, s.emitted, s.outMem, s.outlen, io, rfl⟩
    | ok u s1 =>
      intro h1
      simp only [Res.state_ok] at h1
      simp only [Res.andThen_ok]
      obtain ⟨m, len, io2, h2⟩ := outAppend_frame (s1.buf.toList.take s1.bpb.toNat) s1
      revert h2
      cases outAppend (s1.buf.toList.take s1.bpb.toNat) s1 with
      | raise e s2 =>
        intro h2; simp only [Res.state_raise] at h2; subst h2; subst h1
        exact ⟨b, s.emitted, m, len, io2, rfl⟩
      | ok u s2 =>
        intro h2
        simp only [Res.state_ok] at h2
        simp only [Res.andThen_ok]
        obtain ⟨b3, em3, m3, len3, io3, h3⟩ := ih (pos + s2.cpb.toNat) (s2.addEmitted s2.cpb.toNat)
        refine ⟨b3, em3, m3, len3, io3, ?_⟩
        rw [h3]; subst h2; subst h1; rfl

/-- A raw tail of ENCODE writes EMITTED, OUT and OUTLEN and uses up I/O choices (R269). -/
theorem copyTail_frame (n pos : Nat) (s : State) :
    ∃ em m len io, (copyTail n pos s).state =
      { s with emitted := em, outMem := m, outlen := len, ioOutcomes := io } := by
  induction n generalizing pos s with
  | zero => exact ⟨s.emitted, s.outMem, s.outlen, s.ioOutcomes, rfl⟩
  | succ n ih =>
    rw [copyTail, readIn_eq]
    split_ifs
    · exact ⟨s.emitted, s.outMem, s.outlen, _, rfl⟩
    · simp only [Res.andThen_ok, outByte_eq]
      split_ifs
      · exact ⟨s.emitted, s.outMem, s.outlen, _, rfl⟩
      · simp only [Res.andThen_ok]
        obtain ⟨em, m, len, io, h⟩ := ih (pos + 1) (State.addEmitted { s with
          ioOutcomes := s.ioOutcomes.tail.tail
          outMem := Memory.write s.outMem s.outlen.toNat (Memory.read s.inMem pos)
          outlen := s.outlen + 1 } 1)
        exact ⟨em, m, len, io, h⟩

/-- The output of ENCODE writes BUF, EMITTED, OUT and OUTLEN and uses up I/O choices (R267 to R269). -/
theorem encodeOutput_frame (s : State) :
    ∃ b em m len io, (encodeOutput s).state =
      { s with buf := b, emitted := em, outMem := m, outlen := len, ioOutcomes := io } := by
  let P : State → Prop := fun t => ∃ b em m len io,
    t = { s with buf := b, emitted := em, outMem := m, outlen := len, ioOutcomes := io }
  show P (encodeOutput s).state
  unfold encodeOutput
  refine Res.andThen_keeps ?_ fun _ s1 _ h1 => Res.andThen_keeps ?_ fun _ s2 _ h2 =>
    Res.andThen_keeps ?_ fun _ s3 _ h3 => ?_
  · obtain ⟨m, len, io, h⟩ := outAppend_frame (headerBytes s) s
    exact ⟨s.buf, s.emitted, m, len, io, h⟩
  · obtain ⟨b, em, m, len, io, rfl⟩ := h1
    obtain ⟨m', len', io', h⟩ := outAppend_frame
      (State.alphabet { s with buf := b, emitted := em, outMem := m, outlen := len, ioOutcomes := io })
      { s with buf := b, emitted := em, outMem := m, outlen := len, ioOutcomes := io }
    exact ⟨b, em, m', len', io', h⟩
  · obtain ⟨b, em, m, len, io, rfl⟩ := h2
    obtain ⟨b', em', m', len', io', h⟩ := encodeBlocks_frame (s.inlen.toNat / s.cpb.toNat) 0
      { s with buf := b, emitted := em, outMem := m, outlen := len, ioOutcomes := io }
    exact ⟨b', em', m', len', io', h⟩
  · obtain ⟨b, em, m, len, io, rfl⟩ := h3
    obtain ⟨em', m', len', io', h⟩ := copyTail_frame (s.inlen.toNat % s.cpb.toNat)
      (s.inlen.toNat / s.cpb.toNat * s.cpb.toNat)
      { s with buf := b, emitted := em, outMem := m, outlen := len, ioOutcomes := io }
    exact ⟨b, em', m', len', io', h⟩

/-- A read of bytes uses up I/O choices only (R91). -/
theorem readBytes_frame (n pos : Nat) (acc : List Byte) (s : State) :
    ∃ io, (readBytes n pos acc s).state = { s with ioOutcomes := io } := by
  induction n generalizing pos acc s with
  | zero => exact ⟨s.ioOutcomes, rfl⟩
  | succ n ih =>
    rw [readBytes, readIn_eq]
    split_ifs
    · exact ⟨_, rfl⟩
    · obtain ⟨io, h⟩ := ih (pos + 1) (acc ++ [Memory.read s.inMem pos]) { s with ioOutcomes := s.ioOutcomes.tail }
      exact ⟨io, h⟩

/-- Reading the alphabet bytes writes ALPHA and uses up I/O choices (R274). -/
theorem readAlphabet_frame (n pos k : Nat) (s : State) :
    ∃ a io, (readAlphabet n pos k s).state = { s with alpha := a, ioOutcomes := io } := by
  induction n generalizing pos k s with
  | zero => exact ⟨s.alpha, s.ioOutcomes, rfl⟩
  | succ n ih =>
    rw [readAlphabet, readIn_eq]
    split_ifs
    · exact ⟨s.alpha, _, rfl⟩
    · obtain ⟨a, io, h⟩ := ih (pos + 1) (k + 1) { s with
        ioOutcomes := s.ioOutcomes.tail
        alpha := s.alpha.setIfInBounds k (Memory.read s.inMem pos) }
      exact ⟨a, io, h⟩

/-- Reading a block writes BUF and uses up I/O choices (R276). -/
theorem readBlock_frame (n pos j : Nat) (s : State) :
    ∃ b io, (readBlock n pos j s).state = { s with buf := b, ioOutcomes := io } := by
  induction n generalizing pos j s with
  | zero => exact ⟨s.buf, s.ioOutcomes, rfl⟩
  | succ n ih =>
    rw [readBlock, readIn_eq]
    split_ifs
    · exact ⟨s.buf, _, rfl⟩
    · obtain ⟨b, io, h⟩ := ih (pos + 1) (j + 1) (State.setBuf { s with ioOutcomes := s.ioOutcomes.tail }
        (s.buf.setIfInBounds j (Memory.read s.inMem pos)))
      exact ⟨b, io, h⟩

/-- The positions of a block write EMITTED, OUT and OUTLEN and use up I/O choices (R276). -/
theorem decodePositions_frame (n p : Nat) (s : State) :
    ∃ em m len io, (decodePositions n p s).state =
      { s with emitted := em, outMem := m, outlen := len, ioOutcomes := io } := by
  induction n generalizing p s with
  | zero => exact ⟨s.emitted, s.outMem, s.outlen, s.ioOutcomes, rfl⟩
  | succ n ih =>
    rw [decodePositions]
    split_ifs
    · exact ⟨s.emitted, s.outMem, s.outlen, s.ioOutcomes, rfl⟩
    · rw [outByte_eq]
      split_ifs
      · exact ⟨s.emitted, s.outMem, s.outlen, _, rfl⟩
      · simp only [Res.andThen_ok]
        obtain ⟨em, m, len, io, h⟩ := ih (p + 1) (State.addEmitted { s with
          ioOutcomes := s.ioOutcomes.tail
          outMem := Memory.write s.outMem s.outlen.toNat
            (s.alpha[getIndex s.params.idxOrder p s.cw.toNat s.buf]?.getD 0)
          outlen := s.outlen + 1 } 1)
        exact ⟨em, m, len, io, h⟩

/-- The packed blocks of DECODE write BUF, EMITTED, OUT and OUTLEN and use up I/O choices (R276). -/
theorem decodeBlocks_frame (n pos : Nat) (s : State) :
    ∃ b em m len io, (decodeBlocks n pos s).state =
      { s with buf := b, emitted := em, outMem := m, outlen := len, ioOutcomes := io } := by
  induction n generalizing pos s with
  | zero => exact ⟨s.buf, s.emitted, s.outMem, s.outlen, s.ioOutcomes, rfl⟩
  | succ n ih =>
    rw [decodeBlocks]
    split_ifs
    · exact ⟨s.buf, s.emitted, s.outMem, s.outlen, s.ioOutcomes, rfl⟩
    · obtain ⟨b, io, h1⟩ := readBlock_frame s.bpb.toNat pos 0 s
      revert h1
      cases readBlock s.bpb.toNat pos 0 s with
      | raise e s1 =>
        intro h1; simp only [Res.state_raise] at h1; subst h1
        exact ⟨b, s.emitted, s.outMem, s.outlen, io, rfl⟩
      | ok u s1 =>
        intro h1
        simp only [Res.state_ok] at h1
        simp only [Res.andThen_ok]
        obtain ⟨em, m, len, io2, h2⟩ :=
          decodePositions_frame s1.cpb.toNat 0 (s1.setBuf (clearFrom s1.buf s1.bpb.toNat))
        revert h2
        cases decodePositions s1.cpb.toNat 0 (s1.setBuf (clearFrom s1.buf s1.bpb.toNat)) with
        | raise e s2 =>
          intro h2; simp only [Res.state_raise] at h2; subst h2; subst h1
          exact ⟨_, em, m, len, io2, rfl⟩
        | ok u s2 =>
          intro h2
          simp only [Res.state_ok] at h2
          simp only [Res.andThen_ok]
          obtain ⟨b3, em3, m3, len3, io3, h3⟩ := ih (pos + s2.bpb.toNat) s2
          refine ⟨b3, em3, m3, len3, io3, ?_⟩
          rw [h3]; subst h2; subst h1; rfl

/-- A raw tail of DECODE writes EMITTED, OUT and OUTLEN and uses up I/O choices (R277). -/
theorem decodeTail_frame (n pos : Nat) (s : State) :
    ∃ em m len io, (decodeTail n pos s).state =
      { s with emitted := em, outMem := m, outlen := len, ioOutcomes := io } := by
  induction n generalizing pos s with
  | zero => exact ⟨s.emitted, s.outMem, s.outlen, s.ioOutcomes, rfl⟩
  | succ n ih =>
    rw [decodeTail]
    split_ifs
    · exact ⟨s.emitted, s.outMem, s.outlen, s.ioOutcomes, rfl⟩
    · rw [readIn_eq]
      split_ifs
      · exact ⟨s.emitted, s.outMem, s.outlen, _, rfl⟩
      · simp only [Res.andThen_ok, outByte_eq]
        split_ifs
        · exact ⟨s.emitted, s.outMem, s.outlen, _, rfl⟩
        · simp only [Res.andThen_ok]
          obtain ⟨em, m, len, io, h⟩ := ih (pos + 1) (State.addEmitted { s with
            ioOutcomes := s.ioOutcomes.tail.tail
            outMem := Memory.write s.outMem s.outlen.toNat (Memory.read s.inMem pos)
            outlen := s.outlen + 1 } 1)
          exact ⟨em, m, len, io, h⟩

/-- Taking a header writes ALPHA, INLEN, TLEN, ODL, CW, CPB, BPB and the valid bits and uses up I/O choices
(R273 to R275). -/
theorem decodeHeader_frame (h : List Byte) (s : State) :
    ∃ a io len n od cw cp bp st, (decodeHeader h s).state = { s with
      alpha := a, ioOutcomes := io, inlen := len, tlen := n, odl := od, cw := cw, cpb := cp, bpb := bp,
      status := st } := by
  unfold decodeHeader
  simp only
  split_ifs
  · exact ⟨s.alpha, s.ioOutcomes, s.inlen, s.tlen, s.odl, s.cw, s.cpb, s.bpb, s.status, rfl⟩
  · exact ⟨s.alpha, s.ioOutcomes, s.inlen, s.tlen, s.odl, s.cw, s.cpb, s.bpb, s.status, rfl⟩
  · obtain ⟨a, io, h1⟩ := readAlphabet_frame (hdrWord s.params.hdrEndian (h.drop 4)).toNat 16 0 s
    revert h1
    cases readAlphabet (hdrWord s.params.hdrEndian (h.drop 4)).toNat 16 0 s with
    | raise e s1 =>
      intro h1; simp only [Res.state_raise] at h1; subst h1
      exact ⟨a, io, s.inlen, s.tlen, s.odl, s.cw, s.cpb, s.bpb, s.status, rfl⟩
    | ok u s1 =>
      intro h1; simp only [Res.state_ok] at h1; subst h1
      exact ⟨a, io, _, _, _, _, _, _, _, rfl⟩

end Sys2Proof.Machine
end

