-- ==== Sys2Proof/Laws/PerInstr.lean ====
section
/-! SUPPORT. A family of lemmas, one per command: the word of every command, with its operand fields masked off, is the
`match` word of its row (R113, R114). -/

namespace Sys2Proof.Laws.RowMatches

/-- `encode i & mask(format) = match` (R114). -/
def Statement (i : Instr) : Prop := encode i &&& i.mnemonic.format.mask = i.mnemonic.pattern

/-- Masking a word of format N, A or AB leaves its opcode: a statement on each of the 32 bits. -/
theorem masked_n (o : Byte) : (0#8 ++ 0#8 ++ 0#8 ++ o : Word) &&& Format.mask .n = o.setWidth 32 := by
  apply BitVec.eq_of_getLsbD_eq
  intro i hi
  simp only [Format.mask, BitVec.getLsbD_and, BitVec.getLsbD_append, BitVec.getLsbD_setWidth]
  interval_cases i <;> simp

theorem masked_a (a o : Byte) : (0#8 ++ 0#8 ++ a ++ o : Word) &&& Format.mask .a = o.setWidth 32 := by
  apply BitVec.eq_of_getLsbD_eq
  intro i hi
  simp only [Format.mask, BitVec.getLsbD_and, BitVec.getLsbD_append, BitVec.getLsbD_setWidth]
  interval_cases i <;> simp

theorem masked_ab (a b o : Byte) : (0#8 ++ b ++ a ++ o : Word) &&& Format.mask .ab = o.setWidth 32 := by
  apply BitVec.eq_of_getLsbD_eq
  intro i hi
  simp only [Format.mask, BitVec.getLsbD_and, BitVec.getLsbD_append, BitVec.getLsbD_setWidth]
  interval_cases i <;> simp

theorem nop : Statement .nop := masked_n _
theorem clear : Statement .clear := masked_n _
theorem getbit (a : Byte) : Statement (.getbit a) := masked_a a _
theorem setbit (a b : Byte) : Statement (.setbit a b) := masked_ab a b _
theorem bufclr : Statement .bufclr := masked_n _
theorem putidx (a b : Byte) : Statement (.putidx a b) := masked_ab a b _
theorem getidx (a : Byte) : Statement (.getidx a) := masked_a a _
theorem width (a : Byte) : Statement (.width a) := masked_a a _
theorem geom (a : Byte) : Statement (.geom a) := masked_a a _
theorem setcw (a : Byte) : Statement (.setcw a) := masked_a a _
theorem scan : Statement .scan := masked_n _
theorem dedup : Statement .dedup := masked_n _
theorem lookup (a : Byte) : Statement (.lookup a) := masked_a a _
theorem tree : Statement .tree := masked_n _
theorem encode : Statement .encode := masked_n _
theorem decode : Statement .decode := masked_n _

end Sys2Proof.Laws.RowMatches
end

