-- ==== Sys2Proof/Tests/Slice0.lean ====
section
/-! SUPPORT. The model's own tests: refused ill-formed commands, words written out from the spec's encodings, one-step
tests with the results of 95_test_vectors.md and of the rules' examples, and the witnesses that the obligations'
hypotheses can be met. -/

namespace Sys2Proof.Tests

open Sys2Proof Sys2Proof.Machine

set_option Elab.async false

/-! ### Helpers -/

/-- A core after reset whose host has put the bytes into IN and their number into SRCLEN. -/
def srcState (text : List Byte) : State :=
  { State.reset with inMem := Memory.ofBytes text, srclen := BitVec.ofNat 32 text.length }

/-- The state after a command. -/
def after (i : Instr) (s : State) : State :=
  match exec i s with
  | .next t => t
  | .fault _ => s
  | .refused _ => s

/-- The state after a step. -/
def afterStep (s : State) : State :=
  match step s with
  | .next t => t
  | .fault _ => s
  | .refused _ => s

/-- A next state. -/
def isNext (o : Host.Outcome State Fault Refusal) : Bool :=
  match o with
  | .next _ => true
  | _ => false

theorem next_of_isNext {o : Host.Outcome State Fault Refusal} (h : isNext o = true) : ∃ t, o = .next t := by
  cases o with
  | next t => exact ⟨t, rfl⟩
  | fault _ => cases h
  | refused _ => cases h

/-- A step that was refused with a reason. -/
def refusedWith (o : Host.Outcome State Fault Refusal) (r : Refusal) : Bool :=
  match o with
  | .refused r' => r' == r
  | _ => false

/-- The core of an instance with `W7_BPB = 7` and LSB_FIRST, big-endian headers. -/
def variant : Params := { Params.default with w7Bpb := .seven, idxOrder := .lsbFirst, hdrEndian := .be }

/-- "aaaab" (R16). -/
def aaaab : List Byte := [0x61#8, 0x61#8, 0x61#8, 0x61#8, 0x62#8]

/-- The file of "aaaab" (R260's example). -/
def aaaabFile : List Byte :=
  [0x05#8, 0#8, 0#8, 0#8, 0x02#8, 0#8, 0#8, 0#8, 0x02#8, 0#8, 0#8, 0#8, 0x02#8, 0#8, 0#8, 0#8, 0x61#8, 0x62#8, 0#8,
    0x62#8]

/-- The file of one raw tail byte 0xFF (§2.7 of the vectors). -/
def tailFile : List Byte :=
  [0x01#8, 0#8, 0#8, 0#8, 0x01#8, 0#8, 0#8, 0#8, 0x01#8, 0#8, 0#8, 0#8, 0#8, 0#8, 0#8, 0#8, 0x61#8, 0xFF#8]

/-- "abcab", which gains nothing (§1.7 of the vectors). -/
def abcab : List Byte := [0x61#8, 0x62#8, 0x63#8, 0x61#8, 0x62#8]

/-- The bytes 61 62 80 63 (§1.9 of the vectors). -/
def nonAscii : List Byte := [0x61#8, 0x62#8, 0x80#8, 0x63#8]

/-- A core with the width 3 configured, BUF all 00 (§2.2 of the vectors). -/
def width3 : State := after (.setcw 3) State.reset

/-- A core with the width 7 configured and `W7_BPB = 7`. -/
def width7 : State := after (.setcw 7) { State.reset with params := variant }

/-- A core that has scanned "aaaab" and built its Alphabet (the examples of R211 and R213), with host actions to come. -/
def scannedWith (actions : List HostAction) : State :=
  { srcState aaaab with
    freq := ((Vector.replicate 128 0).set 0x61 4).set 0x62 1
    inlen := 5
    alpha := ((Vector.replicate 128 0).set 0 0x61).set 1 0x62
    tlen := 2
    status := { Status.reset with done := true, freqValid := true, alphaValid := true }
    hostActions := actions }

/-- The same core with no host action to come. -/
def scanned : State := scannedWith []

/-- The same core with the tree of R245's example. -/
def treed : State :=
  { scanned with
    node := ((scanned.node.set 0 { freq := 4, left := 0xFF, right := 0xFF, sym := 0x61, isLeaf := true }).set 1
      { freq := 1, left := 0xFF, right := 0xFF, sym := 0x62, isLeaf := true }).set 2
      { freq := 5, left := 1, right := 0, sym := 0xFF, isLeaf := false }
    leaf := (scanned.leaf.set 0 0x62).set 1 0x61
    root := 2
    ncount := 3
    leafcount := 2
    status := { scanned.status with treeValid := true } }

/-! ### WellFormed: each check refuses an ill-formed command -/

theorem wf_refuses_getbit : (Instr.getbit 64).wellFormed = false := by decide
theorem wf_refuses_setbit_offset : (Instr.setbit 64 1).wellFormed = false := by decide
theorem wf_refuses_setbit_value : (Instr.setbit 63 2).wellFormed = false := by decide
theorem wf_refuses_putidx_index : (Instr.putidx 128 0).wellFormed = false := by decide
theorem wf_refuses_putidx_position : (Instr.putidx 127 8).wellFormed = false := by decide
theorem wf_refuses_getidx : (Instr.getidx 8).wellFormed = false := by decide
theorem wf_refuses_width_zero : (Instr.width 0).wellFormed = false := by decide
theorem wf_refuses_width_large : (Instr.width 129).wellFormed = false := by decide
theorem wf_refuses_geom_zero : (Instr.geom 0).wellFormed = false := by decide
theorem wf_refuses_geom_large : (Instr.geom 8).wellFormed = false := by decide
theorem wf_refuses_setcw_zero : (Instr.setcw 0).wellFormed = false := by decide
theorem wf_refuses_setcw_large : (Instr.setcw 8).wellFormed = false := by decide
theorem wf_takes_the_boundaries :
    [Instr.getbit 63, .setbit 63 1, .putidx 127 7, .getidx 7, .width 1, .width 128, .geom 1, .geom 7, .setcw 1,
      .setcw 7, .lookup 255, .nop].all Instr.wellFormed = true := by decide

/-! ### Decoding: words written out from the formats of R112 and the opcodes of R113 -/

theorem decodes_nop : decode 0b00000000_00000000_00000000_00000000#32 = .ok .nop := by decide
theorem decodes_clear : decode 0b00000000_00000000_00000000_00000001#32 = .ok .clear := by decide
theorem decodes_getbit : decode 0b00000000_00000000_00111111_00010000#32 = .ok (.getbit 63) := by decide
theorem decodes_setbit : decode 0b00000000_00000001_00001001_00010001#32 = .ok (.setbit 9 1) := by decide
theorem decodes_bufclr : decode 0b00000000_00000000_00000000_00010010#32 = .ok .bufclr := by decide
theorem decodes_putidx : decode 0b00000000_00000010_00000101_00010011#32 = .ok (.putidx 5 2) := by decide
theorem decodes_getidx : decode 0b00000000_00000000_00000010_00010100#32 = .ok (.getidx 2) := by decide
theorem decodes_width : decode 0b00000000_00000000_00001001_00100000#32 = .ok (.width 9) := by decide
theorem decodes_geom : decode 0b00000000_00000000_00000111_00100001#32 = .ok (.geom 7) := by decide
theorem decodes_setcw : decode 0b00000000_00000000_00000101_00100010#32 = .ok (.setcw 5) := by decide
theorem decodes_scan : decode 0b00000000_00000000_00000000_00110000#32 = .ok .scan := by decide
theorem decodes_dedup : decode 0b00000000_00000000_00000000_00110001#32 = .ok .dedup := by decide
theorem decodes_lookup : decode 0b00000000_00000000_01110010_00110010#32 = .ok (.lookup 0x72) := by decide
theorem decodes_tree : decode 0b00000000_00000000_00000000_00110011#32 = .ok .tree := by decide
theorem decodes_encode : decode 0b00000000_00000000_00000000_01000000#32 = .ok .encode := by decide
theorem decodes_decode : decode 0b00000000_00000000_00000000_01000001#32 = .ok .decode := by decide

/-- §2.1 of the vectors: SETBIT A = 0, B = 255 decodes (and is then a bad operand). -/
theorem decodes_any_operand : decode 0x00FF0011#32 = .ok (.setbit 0 255) := by decide

/-- §2.1 of the vectors. -/
theorem rejects_words_that_are_no_command :
    decode 0x00000100#32 = .error (.operandNotZero 1) ∧ decode 0x00010010#32 = .error (.operandNotZero 1) ∧
      decode 0x01000040#32 = .error (.reservedNotZero 1) ∧ decode 0x00000002#32 = .error (.unassignedOpcode 0x02) ∧
      decode 0x000000FF#32 = .error (.unassignedOpcode 0xFF) := by decide

theorem encodes_putidx : encode (.putidx 5 2) = 0x00020513#32 := by decide
theorem encodes_lookup : encode (.lookup 0x7A) = 0x00007A32#32 := by decide

theorem table_word_decodes : decodeTableWord 32 0x00020513 = some (.putidx 5 2) := by decide
theorem table_word_rejects : decodeTableWord 32 0x01000040 = none := by decide

/-- The assembly of program P1 of the vectors. -/
theorem assembles_putidx : assemble "PUTIDX 5, 2".toList = .ok (.putidx 5 2) := by decide
theorem assembles_lookup : assemble "LOOKUP 0x7A".toList = .ok (.lookup 0x7A) := by decide
theorem assembler_rejects_operand_count : assemble "SETCW".toList = .error .operandCount := by decide
theorem assembler_rejects_large_operand : assemble "WIDTH 256".toList = .error .operandTooLarge := by decide

/-! ### One command, at most two tests each -/

/-- §2.1 of the vectors: NOP after reset gives STATUS 0x002. -/
theorem nop_after_reset : (after .nop State.reset).status.word = 0x002#32 := by decide

/-- §2.1 of the vectors: NOP at STATUS 0x00E gives 0x00A. -/
theorem nop_keeps_sticky :
    (after .nop { State.reset with
      errcode := 3, status := { Status.reset with done := true, err := true, sticky := true } }).status.word =
      0x00A#32 := by decide

/-- R152's example. -/
theorem clear_example :
    let s := { width3 with
      srclen := 16, status := { width3.status with freqValid := true, sticky := true }, tlen := 5 }
    let t := after .clear s
    t.status.word = 0x002#32 ∧ t.cw = 0 ∧ t.srclen = 16 ∧ t.tlen = 0 := by decide +kernel

/-- R162's example: BUF[1] = 0x01, bit 15. -/
theorem getbit_example : (after (.getbit 15) { State.reset with buf := State.reset.buf.set 1 0x01 }).result = 1 := by
  decide +kernel

/-- §2.2 of the vectors. -/
theorem getbit_64_is_bad : (after (.getbit 64) { State.reset with result := 7 }).errcode = 0x11 := by decide +kernel

/-- R163's example. -/
theorem setbit_example :
    (after (.setbit 9 1) State.reset).buf.toList = [0#8, 0x40#8, 0#8, 0#8, 0#8, 0#8, 0#8, 0#8] := by decide +kernel

/-- R163's example, the bit cleared again. -/
theorem setbit_clears : (after (.setbit 9 0) (after (.setbit 9 1) State.reset)).buf[1] = 0 := by decide +kernel

/-- R164's example. -/
theorem bufclr_example : (after .bufclr { State.reset with buf := State.reset.buf.set 3 0xFF }).buf[3] = 0 := by
  decide +kernel

/-- R167's example. -/
theorem putidx_example :
    (after (.putidx 5 2) width3).buf.toList = [0x02#8, 0x80#8, 0#8, 0#8, 0#8, 0#8, 0#8, 0#8] := by decide +kernel

/-- §2.2 of the vectors: 8 does not fit 3 bits. -/
theorem putidx_8_is_bad : (after (.putidx 8 0) width3).errcode = 0x11 := by decide +kernel

/-- R168's example. -/
theorem getidx_example :
    (after (.getidx 2) { width3 with buf := (width3.buf.set 0 0x02).set 1 0x80 }).result = 5 := by decide +kernel

/-- §2.2 of the vectors: without a configured width. -/
theorem getidx_needs_a_width : (after (.getidx 0) State.reset).errcode = 0x12 := by decide +kernel

/-- §1.4 of the vectors, the two ends of each bucket. -/
theorem width_table :
    [1#8, 2#8, 3#8, 4#8, 7#8, 8#8, 15#8, 16#8, 31#8, 32#8, 63#8, 64#8, 127#8, 128#8].map
        (fun a => (after (.width a) State.reset).result) =
      [1#32, 2#32, 2#32, 3#32, 3#32, 4#32, 4#32, 5#32, 5#32, 6#32, 6#32, 7#32, 7#32, 7#32] := by decide +kernel

/-- §1.2 of the vectors. -/
theorem geom_table :
    [1#8, 2#8, 3#8, 4#8, 5#8, 6#8, 7#8].map (fun a => (after (.geom a) State.reset).result) =
      [0x108#32, 0x104#32, 0x308#32, 0x102#32, 0x508#32, 0x304#32, 0x808#32] := by decide +kernel

/-- §1.2 of the vectors at `W7_BPB = 7`. -/
theorem geom_width7_variant : (after (.geom 7) { State.reset with params := variant }).result = 0x708 := by
  decide +kernel

/-- R195's example. -/
theorem setcw_example :
    let t := after (.setcw 5) State.reset
    t.cw = 5 ∧ t.cpb = 8 ∧ t.bpb = 5 ∧ t.status.cfgValid = true := by decide +kernel

/-- R211's example. -/
theorem scan_example :
    let t := after .scan (srcState aaaab)
    t.freq[0x61] = 4 ∧ t.freq[0x62] = 1 ∧ t.inlen = 5 ∧ t.status.word = 0x012#32 := by decide +kernel

/-- §2.4 of the vectors: 61 62 80 63. -/
theorem scan_non_ascii :
    let t := after .scan (srcState nonAscii)
    t.errcode = 0x01 ∧ t.freq[0x61] = 1 ∧ t.freq[0x63] = 0 ∧ t.status.freqValid = false := by decide +kernel

/-- R213's example. -/
theorem dedup_example :
    let t := after .dedup (after .scan (srcState aaaab))
    t.alphabet = [0x61#8, 0x62#8] ∧ t.status.word = 0x032#32 := by decide +kernel

/-- §2.4 of the vectors: an empty source. -/
theorem dedup_empty : (after .dedup (after .scan (srcState []))).errcode = 0x09 := by decide +kernel

/-- R215's example. -/
theorem lookup_example : (after (.lookup 0x62) scanned).result = 1 := by decide +kernel

/-- R215's example. -/
theorem lookup_missing : (after (.lookup 0x63) scanned).errcode = 0x04 := by decide +kernel

/-- R245's example: node 2, the root. -/
theorem tree_example :
    let t := after .tree scanned
    t.node[2] = { freq := 5, left := 1, right := 0, sym := 0xFF, isLeaf := false } ∧ t.root = 2 ∧
      t.leaf.toList.take 2 = [0x62#8, 0x61#8] := by decide +kernel

/-- §2.5 of the vectors: "aabbcd", where a leaf beats an internal node of equal frequency. -/
theorem tree_tie :
    let t := after .tree (after .dedup (after .scan (srcState [0x61#8, 0x61#8, 0x62#8, 0x62#8, 0x63#8, 0x64#8])))
    t.leaf.toList.take 4 = [0x63#8, 0x64#8, 0x61#8, 0x62#8] ∧ t.root = 6 := by decide +kernel

/-- R260's example. -/
theorem encode_example :
    let t := after .encode (srcState aaaab)
    t.outputBytes = aaaabFile ∧ t.totout = 4 ∧ t.status.word = 0x1F2#32 := by decide +kernel

/-- §1.7 of the vectors. -/
theorem encode_no_gain :
    let t := after .encode (srcState abcab)
    t.errcode = 0x03 ∧ t.totout = 5 ∧ t.outlen = 0 := by decide +kernel

/-- R272's example. -/
theorem decode_example :
    let t := after .decode (srcState aaaabFile)
    t.outputBytes = aaaab ∧ t.emitted = 5 ∧ t.status.word = 0x162#32 := by decide +kernel

/-- Program P4 of the vectors. -/
theorem decode_corrupt_index :
    let t := after .decode (srcState [4#8, 0#8, 0#8, 0#8, 3#8, 0#8, 0#8, 0#8, 2#8, 0#8, 0#8, 0#8, 0#8, 0#8, 0#8, 0#8,
      0x61#8, 0x62#8, 0x63#8, 0x1B#8])
    t.errcode = 0x05 ∧ t.outputBytes = [0x61#8, 0x62#8, 0x63#8] ∧ t.status.word = 0x06E#32 := by decide +kernel

/-- §2.1 of the vectors: an illegal word written to CMD by the host. -/
theorem illegal_word : (afterStep (State.reset.withFetchWord 32 0x01000040)).errcode = 0x10 := by decide +kernel

/-- §2.5 of the vectors: the NODE links word of the root after "aaaab". -/
theorem node_links_word : windowRead (after .tree scanned) 0x814 = 0x00FF0001#32 := by decide +kernel

/-! ### Witnesses: the hypotheses of the obligations can be met -/

theorem witness_EncodeOfDecode : decode 0x00007232#32 = .ok (.lookup 0x72) := by decide

theorem witness_DecodingSelectsOneRow :
    (0x00003F10#32 &&& Mnemonic.getbit.format.mask = Mnemonic.getbit.pattern) ∧
      (opcodeMap.all fun m => 0x00010010#32 &&& m.format.mask != m.pattern) = true ∧
      State.reset.status.busy = false := by decide

/-- The ends of each reserved range, RSV = 1 and RSV = 255, and the smallest nonzero unused operands. -/
theorem witness_ReservedEncodingsAreIllegal :
    [0x02#32, 0x0F#32, 0x15#32, 0x1F#32, 0x23#32, 0x2F#32, 0x34#32, 0x3F#32, 0x42#32, 0xFF#32, 0x01000000#32,
        0xFF000011#32, 0x00000100#32, 0x00010041#32, 0x00010010#32, 0x00FF0032#32].all (fun w =>
      let opc := (w.extractLsb' 0 8).toNat
      let a := w.extractLsb' 8 8
      let b := w.extractLsb' 16 8
      let rsv := w.extractLsb' 24 8
      decide ((2 ≤ opc ∧ opc ≤ 0x0F) ∨ (0x15 ≤ opc ∧ opc ≤ 0x1F) ∨ (0x23 ≤ opc ∧ opc ≤ 0x2F) ∨
        (0x34 ≤ opc ∧ opc ≤ 0x3F) ∨ 0x42 ≤ opc ∨ rsv ≠ 0 ∨
        (opc ∈ [0x00, 0x01, 0x12, 0x30, 0x31, 0x33, 0x40, 0x41] ∧ (a ≠ 0 ∨ b ≠ 0)) ∨
        (opc ∈ [0x10, 0x14, 0x20, 0x21, 0x22, 0x32] ∧ b ≠ 0)) &&
      (match decode w with
        | .ok _ => false
        | .error _ => true)) = true := by decide

theorem witness_AssemblerOperandRules :
    commandOf .setbit [63, 255] = .ok (.setbit 63 255) ∧ commandOf .setbit [63, 256] = .error .operandTooLarge ∧
      commandOf .nop [0] = .error .operandCount := by decide

theorem witness_StepRunsTheWrittenCommand :
    let s := State.reset.withFetchWord 32 0x40
    s.hostActions = [.writeWindow .word s.params.hfmBase 0x40#32] ∧ s.status.busy = false ∧
      decode 0x40#32 = .ok .encode ∧ decode 0x02#32 = .error (.unassignedOpcode 2) ∧
      State.reset.hostActions = [] := by decide

theorem witness_BusyCommandWriteIsLost :
    let s := { State.reset with
      status := { Status.reset with busy := true }, hostActions := [.writeWindow .word 0 0x40#32] }
    s.status.busy = true ∧ s.hostActions = .writeWindow .word s.params.hfmBase 0x40#32 :: [] := by decide

/-- SRCLEN, the smallest and the largest other offsets. -/
theorem witness_HostWindowWrites :
    [0x01C, 0x004, 0xFFC].all (fun off =>
      let s := { State.reset with hostActions := [.writeWindow .word (0 + off) 7#32] }
      decide (s.status.busy = false ∧ off % 4 = 0 ∧ off < 0x1000 ∧ off ≠ 0 ∧
        s.hostActions = [.writeWindow .word (s.params.hfmBase + off) 7#32])) = true := by decide

/-- A byte read at the first offset, a misaligned word write at the last bytes, and the addresses beside the window. -/
theorem witness_BadWindowAccessStops :
    let base := { State.reset with params := { Params.default with hfmBase := 16 } }
    refusedWith (step { base with hostActions := [.readWindow .byte 16] }) .narrowOrMisaligned = true ∧
      refusedWith (step { base with hostActions := [.writeWindow .word 4109 1#32] }) .narrowOrMisaligned = true ∧
      (16 + 0x1000 = 4112 ∧ 15 < base.params.hfmBase) := by decide

theorem witness_WindowReadsHaveNoSideEffect :
    [0x000, 0xFFC].all (fun off =>
      let s := { State.reset with hostActions := [.readWindow .word (0 + off)] }
      decide (off % 4 = 0 ∧ off < 0x1000 ∧
        s.hostActions = [.readWindow .word (s.params.hfmBase + off)])) = true := by decide

/-- Position 0 and the last position, idle and busy; a read of the last byte of the output. -/
theorem witness_HostMemoryAccesses :
    let busy := { State.reset with
      status := { Status.reset with busy := true }, hostActions := [.writeIn 0xFFFFFFFF#32 1#8] }
    let idle := { State.reset with hostActions := [.writeIn 0#32 1#8] }
    let full := { State.reset with outMem := [(19, 0x62#8)], outlen := 20, hostActions := [.readOut 19#32] }
    let fullBusy := { full with status := { Status.reset with busy := true } }
    busy.status.busy = true ∧ idle.status.busy = false ∧ idle.inMem.wf = true ∧ full.status.busy = false ∧
      (19#32).toNat < full.outlen.toNat ∧ (afterStep full).readData = 0x62 ∧
      refusedWith (step busy) .hostWhileBusy = true ∧ refusedWith (step fullBusy) .hostWhileBusy = true := by
  decide +kernel

/-- The last entry of each memory window and the ends of each gap. -/
theorem witness_MemoryWindowReads :
    let s := { State.reset with
      buf := State.reset.buf.set 7 1, freq := State.reset.freq.set 127 2, alpha := State.reset.alpha.set 127 3,
      leaf := State.reset.leaf.set 127 4,
      node := State.reset.node.set 254 { freq := 5, left := 6, right := 7, sym := 8, isLeaf := true } }
    [0x11C, 0x3FC, 0x5FC, 0x7FC, 0xFF0, 0xFF4].map (windowRead s) =
        [1#32, 2#32, 3#32, 4#32, 5#32, 0x01080706#32] ∧
      [0x044, 0x0FC, 0x120, 0x1FC, 0xFF8, 0xFFC].map (windowRead s) = [0#32, 0#32, 0#32, 0#32, 0#32, 0#32] := by
  decide +kernel

theorem witness_PowerOnResetTable :
    let s := { scanned with hostActions := [.powerOnReset] }
    s.hostActions = .powerOnReset :: [] ∧ (afterStep s).inlen = 0 ∧ (afterStep s).inMem = s.inMem := by decide +kernel

/-- CLEAR, and another command that raises the sticky bit. -/
theorem witness_CommandCycleRecordsTheEnd :
    (after .clear (after (.getbit 64) State.reset)).status.sticky = false ∧
      (after (.getbit 64) State.reset).status.sticky = true := by decide +kernel

/-- Every command answers a next state from reset, so each clause has commands it speaks of. -/
theorem witness_CommandsWriteOnlyTheirState :
    ∀ m ∈ opcodeMap, ∃ t, exec (m.instr 0 0) State.reset = .next t := by
  intro m _
  cases m <;> exact ⟨_, rfl⟩

theorem witness_AbortKeepsResultAndInvalidatesOutput :
    (∃ t, exec (.getbit 64) State.reset = .next t ∧ t.errcode ≠ 0) ∧
      (∃ t, exec .encode (srcState abcab) = .next t ∧ t.errcode ≠ 0) ∧
      ∃ t, exec .decode (srcState aaaabFile) = .next t ∧ t.errcode = 0 :=
  ⟨⟨_, rfl, by decide +kernel⟩, ⟨_, rfl, by decide +kernel⟩, ⟨_, rfl, by decide +kernel⟩⟩

theorem witness_ErrorCodesByCommand :
    (∃ t, exec .scan (srcState nonAscii) = .next t ∧ t.errcode.toNat = 0x01) ∧
      ∃ t, exec .encode (srcState []) = .next t ∧ t.errcode.toNat = 0x09 :=
  ⟨⟨_, rfl, by decide +kernel⟩, ⟨_, rfl, by decide +kernel⟩⟩

theorem witness_StateErrorChangesNothing :
    State.reset.status.cfgValid = false ∧ State.reset.status.freqValid = false ∧
      State.reset.status.alphaValid = false ∧ (after .decode (srcState aaaabFile)).status.alphaValid = true ∧
      (after .decode (srcState aaaabFile)).status.freqValid = false := by decide +kernel

/-- The smallest operand outside each range. -/
theorem witness_BadOperandChangesNothing :
    63 < (64#8).toNat ∧ 1 < (2#8).toNat ∧ width3.status.cfgValid = true ∧ 2 ^ width3.cw.toNat ≤ (8#8).toNat ∧
      width3.cpb.toNat ≤ (8#8).toNat ∧ (0#8).toNat = 0 ∧ 128 < (129#8).toNat ∧ 7 < (8#8).toNat := by decide +kernel

theorem witness_ClearResetsRegisters :
    let s := after (.getbit 64) State.reset
    s.status.sticky = true ∧ ∃ t, exec .clear s = .next t ∧ t.status.sticky = false :=
  ⟨by decide +kernel, ⟨_, rfl, by decide +kernel⟩⟩

/-- The largest operands that complete, and the smallest that do not. -/
theorem witness_SetbitWritesOneBit :
    (63#8).toNat ≤ 63 ∧ (1#8).toNat ≤ 1 ∧ 63 < (64#8).toNat ∧ 1 < (2#8).toNat := by decide

/-- The largest index and position, at width 3 and at width 7 with `W7_BPB = 7`, the first values that do not fit, and
no configured width. -/
theorem witness_PutidxWritesItsField :
    width3.CfgTable ∧ width3.status.cfgValid = true ∧ (7#8).toNat < 2 ^ width3.cw.toNat ∧
      (7#8).toNat < width3.cpb.toNat ∧ 2 ^ width3.cw.toNat ≤ (8#8).toNat ∧ width3.cpb.toNat ≤ (8#8).toNat ∧
      width7.CfgTable ∧ width7.status.cfgValid = true ∧ (127#8).toNat < 2 ^ width7.cw.toNat ∧
      (7#8).toNat < width7.cpb.toNat ∧ State.reset.status.cfgValid = false := by decide +kernel

theorem witness_GetidxReadsItsField :
    width3.CfgTable ∧ width3.status.cfgValid = true ∧ (7#8).toNat < width3.cpb.toNat ∧
      width3.cpb.toNat ≤ (8#8).toNat ∧ width7.CfgTable ∧ (7#8).toNat < width7.cpb.toNat ∧
      State.reset.status.cfgValid = false := by decide +kernel

/-- Width 7: the last position, the largest index, the offsets beside its field, and the last covered offset. -/
theorem witness_IndexFieldLaws :
    (7 : Nat) < (geometry Params.default 7).1 ∧ 127 < 2 ^ 7 ∧ 48 < 7 * 7 ∧ 7 * 7 + 7 ≤ 56 ∧
      55 < 8 * (geometry variant 7).2 ∧ 55 < 56 := by decide

/-- Both ends of every row, and the lengths outside the table. -/
theorem witness_WidthFollowsTheRangeTable :
    (Spec.widthRows.all fun r => decide (r.1 ≤ r.2.1 ∧ r.2.1 < 256)) = true ∧ (0#8).toNat = 0 ∧
      128 < (129#8).toNat := by decide

theorem witness_GeomFollowsTheTable :
    ((Spec.geometryRows variant).all fun r => decide ((BitVec.ofNat 8 r.1).toNat = r.1)) = true ∧ (0#8).toNat = 0 ∧
      7 < (8#8).toNat := by decide

theorem witness_SetcwConfigures :
    ((Spec.geometryRows Params.default).all fun r => decide ((BitVec.ofNat 8 r.1).toNat = r.1)) = true ∧
      (0#8).toNat = 0 ∧ 7 < (8#8).toNat := by decide

theorem witness_GeometryLaws :
    (1 ≤ 7 ∧ 7 ≤ 7) ∧ (3 * 8 = 8 * 3) ∧ (1 ≤ 128 ∧ 127 < 128 ∧ 128 ≤ 128) := by decide

/-- The longest and the first too long source; a source that succeeds; the first failing byte at position 2; a failed
read at the first and at the last position. -/
theorem witness_ScanCountsTheSource :
    2147483647 < (0x80000000#32).toNat ∧ (0x7FFFFFFF#32).toNat ≤ 2147483647 ∧
      isAscii (srcState aaaab).sourceBytes = true ∧ (srcState aaaab).ioSucceeds 5 = true ∧
      isAscii ((srcState nonAscii).sourceBytes.take 2) = true ∧ (srcState nonAscii).ioSucceeds 3 = true ∧
      127 < (Memory.read (srcState nonAscii).inMem 2).toNat ∧
      [true][0]? = some true ∧ isAscii ((srcState aaaab).sourceBytes.take 4) = true ∧
      { srcState aaaab with ioOutcomes := [false, false, false, false, true] }.ioSucceeds 4 = true ∧
      { srcState aaaab with ioOutcomes := [false, false, false, false, true] }.ioOutcomes[4]? = some true := by
  decide +kernel

/-- No scan; a scan of nothing; a scan whose only counts are those of the code points 0 and 127. -/
theorem witness_DedupBuildsTheAlphabet :
    State.reset.status.freqValid = false ∧ (after .scan (srcState [])).status.freqValid = true ∧
      ((after .scan (srcState [])).freq.toList.all fun f => f == 0) = true ∧
      (after .scan (srcState [0#8, 127#8])).status.freqValid = true ∧
      (after .scan (srcState [0#8, 127#8])).freq[127] ≠ 0 := by decide +kernel

/-- No Alphabet; an absent code point; the first and the last entry. -/
theorem witness_LookupFindsTheFirst :
    State.reset.status.alphaValid = false ∧ scanned.status.alphaValid = true ∧ scanned.tlen.toNat = 2 ∧
      scanned.alpha[0]? = some 0x61#8 ∧ scanned.alpha[1]? = some 0x62#8 ∧
      (∀ k, k < 2 → scanned.alpha[k]? ≠ some 0x63#8) := by decide +kernel

theorem witness_ScanThenDedupLaw :
    ∃ t u, exec .scan (srcState aaaab) = .next t ∧ t.errcode = 0 ∧ exec .dedup t = .next u ∧ u.errcode = 0 ∧
      0x61#8 ∈ u.alphabet ∧ 0x62#8 ∈ (srcState aaaab).sourceBytes :=
  ⟨_, _, rfl, by decide +kernel, rfl, by decide +kernel, by decide +kernel, by decide +kernel⟩

/-- One symbol, whose build has no internal node, and two, whose build has one. -/
theorem witness_TreeMergesTheTwoSmallest :
    1 ≤ [0x61#8].length ∧ [0x61#8].length ≤ 128 ∧ 2 * [0x61#8].length - 1 = 1 ∧ 2 ≤ 2 ∧
      2 < 2 * [0x61#8, 0x62#8].length - 1 := by decide

/-- A leaf and an internal node. -/
theorem witness_InorderVisitsLeftFirst :
    ((buildTree scanned.freq [0x61#8, 0x62#8]).1[0]?.getD default).isLeaf = true ∧
      ((buildTree scanned.freq [0x61#8, 0x62#8]).1[2]?.map fun nd => nd.isLeaf) = some false := by decide +kernel

/-- A scanned core with its Alphabet meets the validity invariants. -/
theorem scannedWith_valid (actions : List HostAction) : (scannedWith actions).Valid where
  freqCounts _ := ⟨aaaab, by decide, rfl, by decide, (by decide +kernel : scanned.freq = Spec.scanCounts aaaab)⟩
  alphaRange _ := (by decide : 1 ≤ (2#8).toNat ∧ (2#8).toNat ≤ 128)
  alphaDedup _ _ := (by decide +kernel : scanned.alphabet = dedupList scanned.freq)
  treeBits h := absurd h Bool.false_ne_true
  treeTables h := absurd h Bool.false_ne_true
  cfgTable h := absurd h Bool.false_ne_true

/-- Both valid bits set. -/
theorem witness_TreeLeavesAreTheAlphabet :
    scanned.Valid ∧ scanned.status.alphaValid = true ∧ scanned.status.freqValid = true :=
  ⟨scannedWith_valid [], rfl, rfl⟩

/-- Neither bit set, the Alphabet alone (after DECODE), and both. -/
theorem witness_TreeStoresTheTree :
    State.reset.status.alphaValid = false ∧ (after .decode (srcState aaaabFile)).status.freqValid = false ∧
      scanned.Valid ∧ scanned.status.alphaValid = true ∧ scanned.status.freqValid = true :=
  ⟨by decide, by decide +kernel, witness_TreeLeavesAreTheAlphabet⟩

theorem witness_OdlIsThePackedLength : 1 ≤ 7 ∧ 7 ≤ 7 ∧ variant.w7Bpb = .seven := by decide

theorem witness_EncodeFollowsTheFormat :
    { srcState aaaab with ioOutcomes := [false, false] }.outMem.wf = true ∧
      { srcState aaaab with ioOutcomes := [false, false] }.noIoFailure = true := by decide +kernel

/-- One character, in an instance with another TOTOUT_FN. -/
def oneCharacter (id : Nat) : State :=
  { srcState [0x61#8] with params := { Params.default with totoutFn := .other id } }

theorem oneCharacter_sourceBytes (id : Nat) : (oneCharacter id).sourceBytes = [0x61#8] := by
  show (srcState [0x61#8]).sourceBytes = [0x61#8]
  decide +kernel

/-- The gain check of that source. -/
theorem oneCharacter_totout (id : Nat) :
    Spec.totoutOfText (oneCharacter id).params (oneCharacter id).sourceBytes = (Config.totoutOther id 1 1).toNat := by
  have hn : (Spec.alphabetOf [0x61#8]).length = 1 := by decide +kernel
  have hw : Spec.widthOf [0x61#8] = 1 := by decide +kernel
  have ho : (odlOf Params.default 1 (geometry Params.default 1).2 [0x61#8].length).toNat = 1 := by decide
  rw [oneCharacter_sourceBytes]
  simp only [Spec.totoutOfText, Spec.odlOfText, hn, hw]
  show (Config.totoutOther id 1 (odlOf Params.default 1 (geometry Params.default 1).2 [0x61#8].length).toNat).toNat = _
  rw [ho]

/-- A text with a packed block; and, whenever the instance's TOTOUT_FN is 0 there, a text without one. -/
theorem witness_EncodeCompletes :
    (let s := srcState aaaab;
      s.outMem.wf = true ∧ s.noIoFailure = true ∧ 1 ≤ s.srclen.toNat ∧ s.srclen.toNat ≤ 2147483647 ∧
        isAscii s.sourceBytes = true ∧ Spec.totoutOfText s.params s.sourceBytes < s.srclen.toNat ∧
        0 < s.sourceBytes.length / (geometry s.params (Spec.widthOf s.sourceBytes)).1) ∧
      ∀ id, Config.totoutOther id 1 1 = 0 →
        Spec.totoutOfText (oneCharacter id).params (oneCharacter id).sourceBytes < (oneCharacter id).srclen.toNat ∧
          (oneCharacter id).sourceBytes.length /
            (geometry (oneCharacter id).params (Spec.widthOf (oneCharacter id).sourceBytes)).1 = 0 := by
  refine ⟨by decide +kernel, fun id h => ⟨?_, ?_⟩⟩
  · rw [oneCharacter_totout, h]
    exact Nat.one_pos
  · rw [oneCharacter_sourceBytes]
    show [0x61#8].length / (geometry Params.default (Spec.widthOf [0x61#8])).1 = 0
    decide +kernel

theorem witness_NoGainWritesNothing :
    let s := srcState abcab
    s.noIoFailure = true ∧ 1 ≤ s.srclen.toNat ∧ s.srclen.toNat ≤ 2147483647 ∧ isAscii s.sourceBytes = true ∧
      s.srclen.toNat ≤ Spec.totoutOfText s.params s.sourceBytes := by decide +kernel

theorem witness_EncodeNeverMissesACharacter : ∃ t, exec .encode (srcState aaaab) = .next t := ⟨_, rfl⟩

/-- A successful ENCODE at a width up to 6 with the default functions. -/
theorem witness_EncodeOutputSize :
    (srcState aaaab).outMem.wf = true ∧
      ∃ t, exec .encode (srcState aaaab) = .next t ∧ t.errcode = 0 ∧ t.cw.toNat ≤ 6 ∧
        (srcState aaaab).params.odlFn = .remainderFormula ∧ (srcState aaaab).params.totoutFn = .tlenPlusOdl :=
  ⟨by decide, ⟨_, rfl, by decide +kernel, by decide +kernel, rfl, rfl⟩⟩

theorem witness_DecodeFollowsTheFormat :
    (srcState aaaabFile).outMem.wf = true ∧ (srcState aaaabFile).noIoFailure = true := by decide

/-- A file with a packed block, and one that is all raw tail (§2.7 of the vectors). -/
theorem witness_DecodeCompletes :
    [(aaaabFile, true), (tailFile, false)].all (fun c =>
      let s := srcState c.1
      decide (s.outMem.wf = true ∧ s.noIoFailure = true ∧ Spec.headerOk s.params s.sourceBytes = true ∧
        (Spec.decodeFile s.params s.sourceBytes).2 = 0 ∧
        ((0 < (Spec.headerField s.params.hdrEndian s.sourceBytes 0).toNat /
          (geometry s.params (Spec.headerField s.params.hdrEndian s.sourceBytes 8).toNat).1) ↔ c.2 = true))) =
      true := by decide +kernel

/-- The longest source that holds no header, and a header whose table length is 0. -/
theorem witness_CorruptHeaderWritesNothing :
    (srcState (aaaabFile.take 15)).noIoFailure = true ∧
      Spec.headerOk Params.default (srcState (aaaabFile.take 15)).sourceBytes = false ∧
      Spec.headerOk Params.default (srcState (aaaabFile.set 4 0)).sourceBytes = false := by decide +kernel

/-- "aaaab" encoded, the file copied into IN, the core cleared. -/
theorem witness_RoundTrip :
    (srcState aaaab).outMem.wf = true ∧ ∃ t, exec .encode (srcState aaaab) = .next t ∧ t.errcode = 0 ∧
      (srcState aaaabFile).params = (srcState aaaab).params ∧ (srcState aaaabFile).srclen = t.outlen ∧
      (srcState aaaabFile).sourceBytes = t.outputBytes ∧ (srcState aaaabFile).outMem.wf = true ∧
      (srcState aaaabFile).noIoFailure = true :=
  ⟨by decide, ⟨_, rfl, by decide +kernel, rfl, by decide +kernel, by decide +kernel, by decide, by decide⟩⟩

/-- A SCAN that makes 3 events and ends in NonAsciiInput; an ENCODE that succeeds with 31 events (5 + 20 + 5 and the
close) and one that ends in NonAsciiInput with 4, the last of them the close; a DECODE of 20 bytes that succeeds with 26;
a failed event; a failed first event. -/
theorem witness_IoFailureEndsTheCommand :
    (∃ t, Spec.RunsWith .scan (srcState nonAscii) 3 t ∧ t.errcode ≠ 0) ∧
      (∃ t, Spec.RunsWith .encode (srcState aaaab) 31 t ∧ t.errcode = 0) ∧
      (∃ t, Spec.RunsWith .encode (srcState nonAscii) 4 t ∧ t.errcode ≠ 0 ∧ 2 + 1 < 4) ∧
      (∃ t, Spec.RunsWith .decode (srcState aaaabFile) 26 t ∧ t.errcode = 0) ∧
      (∃ t, exec .decode { srcState aaaabFile with ioOutcomes := [false, true] } = .next t ∧ t.errcode = 0x06#8) ∧
      (let s := { srcState aaaabFile with ioOutcomes := [true] };
        s.ioOutcomes.head? = some true ∧ 1 ≤ s.srclen.toNat ∧ s.srclen.toNat ≤ 2147483647 ∧ 16 ≤ s.srclen.toNat) :=
  ⟨⟨_, ⟨rfl, by decide +kernel⟩, by decide +kernel⟩, ⟨_, ⟨rfl, by decide +kernel⟩, by decide +kernel⟩,
    ⟨_, ⟨rfl, by decide +kernel⟩, by decide +kernel, by decide⟩, ⟨_, ⟨rfl, by decide +kernel⟩, by decide +kernel⟩,
    ⟨_, rfl, by decide +kernel⟩, by decide +kernel⟩

/-- The events of "aaaab" counted by hand: 5 reads, 16 header and 2 Alphabet bytes, 4 reads and 1 append, one tail byte. -/
theorem events_of_aaaab :
    (Spec.encodeEvents Params.default aaaab).length = 30 ∧ Spec.appendsIn (Spec.encodeEvents Params.default aaaab) 28 = 19 ∧
      (Spec.decodeEvents Params.default aaaabFile).length = 25 ∧
      Spec.appendsIn (Spec.decodeEvents Params.default aaaabFile) 21 = 2 := by decide +kernel

theorem witness_SourceBeyondItsLengthIsIgnored :
    (∃ t, exec .scan (srcState aaaab) = .next t) ∧
      ∀ pos, pos < (srcState aaaab).srclen.toNat →
        Memory.read (Memory.ofBytes (aaaab ++ [0xFF#8])) pos = Memory.read (srcState aaaab).inMem pos :=
  ⟨⟨_, rfl⟩, by decide +kernel⟩

theorem witness_OldOutputIsNeverRead :
    (srcState aaaab).outMem.wf = true ∧ Memory.wf [(30, 7#8)] = true ∧
      ∃ t, exec .encode (srcState aaaab) = .next t ∧ t.errcode ≠ 0x06#8 ∧ 0 < t.outlen.toNat :=
  ⟨by decide, by decide, ⟨_, rfl, by decide +kernel, by decide +kernel⟩⟩

/-- Two cores that differ in an entry of each table that no valid bit covers: ALPHA past TLEN, NODE and LEAF before any
tree; and, with a valid tree, NODE past NCOUNT and LEAF past LEAFCOUNT. -/
theorem witness_UncoveredTablesAreNeverTold :
    scanned.Alike { scanned with
      alpha := scanned.alpha.set 2 7
      node := scanned.node.set 0 { freq := 1, left := 2, right := 3, sym := 4, isLeaf := true }
      leaf := scanned.leaf.set 5 9 } ∧
    treed.Alike { treed with
      alpha := treed.alpha.set 2 7
      node := treed.node.set 3 { freq := 1, left := 2, right := 3, sym := 4, isLeaf := true }
      leaf := treed.leaf.set 2 9 } :=
  ⟨⟨rfl, fun _ => rfl, fun _ => by decide +kernel, fun h => absurd h Bool.false_ne_true⟩,
    ⟨rfl, fun _ => rfl, fun _ => by decide +kernel, fun _ => by decide +kernel⟩⟩

theorem reset_coherent : State.reset.Coherent :=
  ⟨by decide, by decide, by decide, by decide, by decide, by decide, Or.inl (by decide)⟩

theorem witness_StepKeepsCoherence :
    (State.reset.withFetchWord 32 0x30).Coherent ∧ ∃ t, step (State.reset.withFetchWord 32 0x30) = .next t :=
  ⟨⟨by decide, by decide, by decide, by decide, by decide, by decide, Or.inl (by decide)⟩,
    next_of_isNext (by decide +kernel)⟩

/-- A scanned core about to run TREE. -/
theorem witness_StepKeepsValidity :
    (scannedWith [.writeWindow .word 0 0x33#32]).Valid ∧
      ∃ t, step (scannedWith [.writeWindow .word 0 0x33#32]) = .next t :=
  ⟨scannedWith_valid _, next_of_isNext (by decide +kernel)⟩

/-- The state after reset, with no host action to come and with two. -/
theorem witness_ReachableStatesMeetTheInvariants :
    Reachable State.reset ∧
      Reachable { State.reset with hostActions := [.writeWindow .word 0 0x40#32, .readWindow .word 8] } :=
  ⟨.reset Params.default State.reset.freq State.reset.alpha State.reset.node State.reset.leaf [] [] [] [] rfl rfl,
    .reset Params.default State.reset.freq State.reset.alpha State.reset.node State.reset.leaf [] [] []
      [.writeWindow .word 0 0x40#32, .readWindow .word 8] rfl rfl⟩

end Sys2Proof.Tests
end

section
/-! SUPPORT. The host's actions as steps (R339, R340), and the reset table after a power-on reset (R61, R330). -/

namespace Sys2Proof.Machine

/-! ### One host action is one step -/

/-- With no action pending the core is idle and all state survives (R325, R332). -/
theorem step_of_no_action {s : State} (h : s.hostActions = []) : step s = .next s := by
  unfold step hostStep
  rw [h]

/-- A step takes the first action off the host's list and performs it. -/
theorem step_of_action {s : State} {a : HostAction} {rest : List HostAction} (h : s.hostActions = a :: rest) :
    step s = perform a { s with hostActions := rest } := by
  unfold step hostStep
  rw [h]

theorem perform_powerOnReset (s : State) : perform .powerOnReset s = .next (powerOn s) := rfl

/-! ### The state after a power-on reset -/

@[simp] theorem powerOn_inMem (s : State) : (powerOn s).inMem = s.inMem := rfl
@[simp] theorem powerOn_outMem (s : State) : (powerOn s).outMem = s.outMem := rfl

@[simp] theorem Status.reset_word : Status.reset.word = 0 := by decide

@[simp] theorem State.reset_buf_getElem (k : Nat) (h : k < 8) : State.reset.buf[k] = 0 :=
  Vector.getElem_replicate h

theorem State.reset_resetTable : Spec.ResetTable State.reset :=
  ⟨Status.reset_word, rfl, rfl, rfl, rfl, rfl, rfl, rfl, rfl, rfl, rfl, rfl, rfl, rfl, rfl, rfl,
    State.reset_buf_getElem⟩

/-- Every field that the table of R61 names is one that a power-on reset takes from `State.reset`, whatever the state
before; the fields it takes from elsewhere are not in the table. -/
theorem powerOn_resetTable_iff (s : State) : Spec.ResetTable (powerOn s) ↔ Spec.ResetTable State.reset := by
  unfold Spec.ResetTable
  exact Iff.rfl

/-- Settles O15: a power-on reset is one host action, and `powerOn` agrees with `State.reset` on the reset table. -/
theorem powerOnResetTable : Obligations.PowerOnResetTable := by
  refine ⟨State.reset_resetTable, fun s rest h => ?_⟩
  have hstep : step s = .next (powerOn { s with hostActions := rest }) :=
    (step_of_action h).trans (perform_powerOnReset _)
  exact ⟨_, hstep, (powerOn_resetTable_iff _).mpr State.reset_resetTable, powerOn_inMem _, powerOn_outMem _⟩

end Sys2Proof.Machine
end

section
/-! SUPPORT. The decoder and the opcode map (R111 to R116): the fields of a word, when a row selects it, what decoding
answers, and the illegal words. -/

namespace Sys2Proof

/-! ### The fields of a word (R111) -/

/-- The four fields hold all the bits of a word. -/
theorem word_eq_iff_fields {v w : Word} :
    v = w ↔ fieldOpc v = fieldOpc w ∧ fieldRsv v = fieldRsv w ∧ fieldB v = fieldB w ∧ fieldA v = fieldA w := by
  have append_fields (u : Word) : fieldRsv u ++ fieldB u ++ fieldA u ++ fieldOpc u = u := by
    unfold fieldRsv fieldB fieldA fieldOpc
    rw [BitVec.extractLsb'_append_extractLsb'_eq_extractLsb' (start₂ := 24) (start₁ := 16) rfl,
      BitVec.extractLsb'_append_extractLsb'_eq_extractLsb' (start₂ := 16) (start₁ := 8) rfl,
      BitVec.extractLsb'_append_extractLsb'_eq_extractLsb' (start₂ := 8) (start₁ := 0) rfl]
    exact BitVec.extractLsb'_eq_self
  constructor
  · rintro rfl
    exact ⟨rfl, rfl, rfl, rfl⟩
  · rintro ⟨ho, hr, hb, ha⟩
    rw [← append_fields v, ← append_fields w, ho, hr, hb, ha]

@[simp] theorem fieldOpc_and (v w : Word) : fieldOpc (v &&& w) = fieldOpc v &&& fieldOpc w := BitVec.extractLsb'_and
@[simp] theorem fieldA_and (v w : Word) : fieldA (v &&& w) = fieldA v &&& fieldA w := BitVec.extractLsb'_and
@[simp] theorem fieldB_and (v w : Word) : fieldB (v &&& w) = fieldB v &&& fieldB w := BitVec.extractLsb'_and
@[simp] theorem fieldRsv_and (v w : Word) : fieldRsv (v &&& w) = fieldRsv v &&& fieldRsv w := BitVec.extractLsb'_and

/-! ### Masks and match words, field by field (R112, R113) -/

@[simp] theorem fieldOpc_mask (f : Format) : fieldOpc f.mask = 0xFF#8 := by cases f <;> rfl
@[simp] theorem fieldRsv_mask (f : Format) : fieldRsv f.mask = 0xFF#8 := by cases f <;> rfl
@[simp] theorem fieldA_mask (f : Format) : fieldA f.mask = if f = .n then 0xFF#8 else 0#8 := by cases f <;> rfl
@[simp] theorem fieldB_mask (f : Format) : fieldB f.mask = if f = .ab then 0#8 else 0xFF#8 := by cases f <;> rfl

/-- Masking a field with ones keeps it. -/
@[simp] theorem and_ones (x : Byte) : x &&& 0xFF#8 = x := BitVec.and_allOnes

@[simp] theorem fieldOpc_pattern (m : Mnemonic) : fieldOpc m.pattern = m.opc := by cases m <;> rfl
@[simp] theorem fieldA_pattern (m : Mnemonic) : fieldA m.pattern = 0 := by cases m <;> rfl
@[simp] theorem fieldB_pattern (m : Mnemonic) : fieldB m.pattern = 0 := by cases m <;> rfl
@[simp] theorem fieldRsv_pattern (m : Mnemonic) : fieldRsv m.pattern = 0 := by cases m <;> rfl

/-! ### Rows -/

theorem mem_opcodeMap (m : Mnemonic) : m ∈ opcodeMap := by cases m <;> decide

/-- The lookup of an OPC finds a row exactly when the OPC is that row's (R113). -/
theorem mnemonicOf_eq_some_iff {o : Byte} {m : Mnemonic} : mnemonicOf o = some m ↔ o = m.opc := by
  constructor
  · intro h
    unfold mnemonicOf at h
    split at h <;> cases h <;> exact BitVec.eq_of_toNat_eq (by assumption)
  · rintro rfl
    cases m <;> rfl

/-- The OPC values of R113 are distinct. -/
theorem Mnemonic.opc_injective {m m' : Mnemonic} (h : m.opc = m'.opc) : m = m' :=
  Option.some.inj ((mnemonicOf_eq_some_iff.mpr rfl).symm.trans (mnemonicOf_eq_some_iff.mpr h))

/-- What the format requires to be zero: RSV, B unless it is AB, and A if it is N (R112). -/
theorem checkZeros_eq_none_iff {f : Format} {w : Word} :
    checkZeros f w = none ↔ fieldRsv w = 0 ∧ (f ≠ .ab → fieldB w = 0) ∧ (f = .n → fieldA w = 0) := by
  unfold checkZeros
  cases f with
  | n => split_ifs <;> simp_all
  | a => split_ifs <;> simp_all
  | ab => split_ifs <;> simp_all

/-- A row selects a word exactly when the OPC is the row's and the must-be-zero fields are zero: the mask test of R114
is the decoder's test. -/
theorem masked_eq_pattern_iff {w : Word} {m : Mnemonic} :
    w &&& m.format.mask = m.pattern ↔ fieldOpc w = m.opc ∧ checkZeros m.format w = none := by
  rw [word_eq_iff_fields, checkZeros_eq_none_iff]
  cases m.format with
  | n => simp
  | a => simp
  | ab => simp

/-- At most one row selects a word (R114). -/
theorem selected_row_unique {w : Word} {m m' : Mnemonic} (h : w &&& m.format.mask = m.pattern)
    (h' : w &&& m'.format.mask = m'.pattern) : m' = m :=
  Mnemonic.opc_injective ((masked_eq_pattern_iff.mp h').1.symm.trans (masked_eq_pattern_iff.mp h).1)

/-! ### What decoding answers (R114) -/

/-- A word that a row selects decodes to the row's command with the operands of the word. -/
theorem decode_of_selected {w : Word} {m : Mnemonic} (h : w &&& m.format.mask = m.pattern) :
    decode w = .ok (m.instr (fieldA w) (fieldB w)) := by
  obtain ⟨hopc, hzeros⟩ := masked_eq_pattern_iff.mp h
  simp [decode, mnemonicOf_eq_some_iff.mpr hopc, hzeros]

/-- A word that decodes is one that a row selects. -/
theorem selected_of_decode {w : Word} {i : Instr} (h : decode w = .ok i) :
    ∃ m : Mnemonic, w &&& m.format.mask = m.pattern := by
  unfold decode at h
  split at h
  · cases h
  next m hm =>
    split at h
    · cases h
    next hzeros => exact ⟨m, masked_eq_pattern_iff.mpr ⟨mnemonicOf_eq_some_iff.mp hm, hzeros⟩⟩

/-- A word that no row selects decodes to an error. -/
theorem decode_of_unselected {w : Word} (h : ∀ m : Mnemonic, w &&& m.format.mask ≠ m.pattern) :
    ∃ e, decode w = .error e := by
  cases hd : decode w with
  | error e => exact ⟨e, rfl⟩
  | ok i =>
    obtain ⟨m, hm⟩ := selected_of_decode hd
    exact absurd hm (h m)

/-! ### Reserved encodings (R116) -/

/-- The OPC ranges that R116 reserves. -/
def ReservedOpc (o : Nat) : Prop :=
  (2 ≤ o ∧ o ≤ 0x0F) ∨ (0x15 ≤ o ∧ o ≤ 0x1F) ∨ (0x23 ≤ o ∧ o ≤ 0x2F) ∨ (0x34 ≤ o ∧ o ≤ 0x3F) ∨ 0x42 ≤ o

theorem Mnemonic.opc_not_reserved (m : Mnemonic) : ¬ ReservedOpc m.opc.toNat := by
  unfold ReservedOpc
  cases m <;> decide

/-- The OPC values of the commands without operands (R113). -/
theorem Mnemonic.format_of_opc_n {m : Mnemonic}
    (h : m.opc.toNat ∈ [0x00, 0x01, 0x12, 0x30, 0x31, 0x33, 0x40, 0x41]) : m.format = .n := by
  revert h
  cases m <;> decide

/-- The OPC values of the commands with operand A alone (R113). -/
theorem Mnemonic.format_of_opc_a {m : Mnemonic}
    (h : m.opc.toNat ∈ [0x10, 0x14, 0x20, 0x21, 0x22, 0x32]) : m.format = .a := by
  revert h
  cases m <;> decide

/-- Settles O5: a row that selected such a word would have a reserved OPC, or a format that requires the nonzero field
to be zero. -/
theorem reservedEncodingsAreIllegal : Obligations.ReservedEncodingsAreIllegal := by
  intro w opc a b rsv hreserved
  refine decode_of_unselected fun m hm => ?_
  obtain ⟨hopc, hzeros⟩ := masked_eq_pattern_iff.mp hm
  obtain ⟨hrsv, hb, ha⟩ := checkZeros_eq_none_iff.mp hzeros
  have hopc : opc = m.opc.toNat := congrArg BitVec.toNat hopc
  have hclauses : ReservedOpc m.opc.toNat ∨ rsv ≠ 0 ∨
      (m.opc.toNat ∈ [0x00, 0x01, 0x12, 0x30, 0x31, 0x33, 0x40, 0x41] ∧ (a ≠ 0 ∨ b ≠ 0)) ∨
      (m.opc.toNat ∈ [0x10, 0x14, 0x20, 0x21, 0x22, 0x32] ∧ b ≠ 0) := by
    simpa only [ReservedOpc, or_assoc, hopc] using hreserved
  rcases hclauses with hopcReserved | hrsv' | ⟨hmem, hab⟩ | ⟨hmem, hb'⟩
  · exact m.opc_not_reserved hopcReserved
  · exact hrsv' hrsv
  · have hn := Mnemonic.format_of_opc_n hmem
    exact hab.elim (fun h => h (ha hn)) (fun h => h (hb (by simp [hn])))
  · exact hb' (hb (by simp [Mnemonic.format_of_opc_a hmem]))

end Sys2Proof

namespace Sys2Proof.Machine

/-! ### An illegal word written to CMD (R302) -/

/-- The abort with IllegalCommand, as an outcome of the whole command cycle. -/
theorem illegalCommand_eq (s : State) : illegalCommand s = Spec.abort s 0x10#8 := by
  rw [illegalCommand, runCommand_eq]
  simp [bodyIllegal, prologue, State.finish, Status.finish, ErrKind.code, Spec.abort]

/-- An idle core answers a word that does not decode with that abort. -/
theorem issueCommand_of_error {w : Word} {e : DecodeError} {s : State} (hidle : s.status.busy = false)
    (h : decode w = .error e) : issueCommand w s = Spec.abort s 0x10#8 := by
  simp [issueCommand, hidle, h, illegalCommand_eq]

/-- Settles O4: either some row selects the word, and then it is the only one and gives the decoded command, or none
does, and the word is illegal. -/
theorem decodingSelectsOneRow : Obligations.DecodingSelectsOneRow := by
  intro w
  by_cases hsel : ∃ m : Mnemonic, w &&& m.format.mask = m.pattern
  · obtain ⟨m, hm⟩ := hsel
    exact .inl ⟨m, mem_opcodeMap m, ⟨hm, decode_of_selected hm⟩, fun _ _ hm' => selected_row_unique hm hm'⟩
  · have hnone : ∀ m : Mnemonic, w &&& m.format.mask ≠ m.pattern := not_exists.mp hsel
    obtain ⟨e, he⟩ := decode_of_unselected hnone
    exact .inr ⟨fun m _ => hnone m, ⟨e, he⟩, fun s hidle => issueCommand_of_error hidle he⟩

end Sys2Proof.Machine
end

section
/-! SUPPORT. The system commands (R151): the one word of a command without operands, how a command that succeeds ends,
and what NOP does. -/

namespace Sys2Proof

/-! ### The word of a command (R112, R114) -/

@[simp] theorem Mnemonic.mnemonic_instr (m : Mnemonic) (a b : Byte) : (m.instr a b).mnemonic = m := by
  cases m <;> rfl

/-- A word decodes to a command exactly when the command's row selects it and its fields hold the command's operands. -/
theorem decode_eq_ok_iff {w : Word} {i : Instr} :
    decode w = .ok i ↔
      w &&& i.mnemonic.format.mask = i.mnemonic.pattern ∧ i.mnemonic.instr (fieldA w) (fieldB w) = i := by
  constructor
  · intro h
    obtain ⟨m, hm⟩ := selected_of_decode h
    have hi : m.instr (fieldA w) (fieldB w) = i := Except.ok.inj ((decode_of_selected hm).symm.trans h)
    have hrow : i.mnemonic = m := hi ▸ m.mnemonic_instr _ _
    rw [hrow]
    exact ⟨hm, hi⟩
  · rintro ⟨hsel, hi⟩
    rw [decode_of_selected hsel, hi]

/-- A command of format N ignores the operands its mnemonic is given (R112). -/
theorem Instr.instr_mnemonic_of_format_n {i : Instr} (h : i.mnemonic.format = .n) (a b : Byte) :
    i.mnemonic.instr a b = i := by
  cases i <;> cases h <;> rfl

/-- The mask of format N is all ones (R112). -/
theorem and_mask_n (w : Word) : w &&& Format.mask .n = w := BitVec.and_allOnes

/-- One word alone decodes to a command of format N: the `match` word of its row (R112, R113). -/
theorem decode_eq_ok_iff_of_format_n {w : Word} {i : Instr} (h : i.mnemonic.format = .n) :
    decode w = .ok i ↔ w = i.mnemonic.pattern := by
  rw [decode_eq_ok_iff, h, and_mask_n]
  exact and_iff_left (Instr.instr_mnemonic_of_format_n h _ _)

end Sys2Proof

namespace Sys2Proof.Machine

/-! ### Commands that succeed (R150) -/

/-- A body that ends normally, in `t` but for the prologue's BUSY, is a command that succeeds in `t`. -/
theorem runCommand_of_ok {body : State → Res Unit} {s t : State} (h : body (prologue s) = .ok () (prologue t)) :
    runCommand body s = Spec.success t := by
  rw [runCommand_eq, h, epilogue_ok]
  simp [State.finish, prologue, Status.finish, Spec.success]

/-! ### NOP (R151) -/

theorem exec_nop (s : State) : exec .nop s = runCommand bodyNop s := rfl

/-- Settles O22: NOP has format N, so only the `match` word of its row decodes to it, and its body leaves the prologue's
state to the epilogue. -/
theorem nopOnlyEndsNormally : Obligations.NopOnlyEndsNormally := by
  constructor
  · exact fun w => decode_eq_ok_iff_of_format_n (i := .nop) rfl
  · intro s
    rw [exec_nop]
    exact runCommand_of_ok rfl

end Sys2Proof.Machine
end

section
/-! SUPPORT. BitPacker and the fixed-width index encoder (R160 to R169): the word of a command with operands, how a
command that aborts at once ends, an index field read back, the fields of a block, and the commands on BUF. -/

namespace Sys2Proof

/-! ### The word of a command with operands (R111, R112) -/

/-- The word of format AB holds its four bytes from bit 31 down (R111). -/
theorem wordAB_eq_append (o a b : Byte) : Machine.Spec.wordAB o a b = 0#8 ++ b ++ a ++ o := by
  unfold Machine.Spec.wordAB
  ext k hk
  simp only [BitVec.getElem_or, BitVec.getElem_shiftLeft, BitVec.getElem_setWidth]
  grind

@[simp] theorem fieldOpc_wordAB (o a b : Byte) : fieldOpc (Machine.Spec.wordAB o a b) = o := by
  rw [wordAB_eq_append, fieldOpc, BitVec.extractLsb'_append_eq_right]

@[simp] theorem fieldA_wordAB (o a b : Byte) : fieldA (Machine.Spec.wordAB o a b) = a := by
  rw [wordAB_eq_append, fieldA, BitVec.extractLsb'_append_eq_of_le (Nat.le_refl 8), BitVec.extractLsb'_append_eq_right]

@[simp] theorem fieldB_wordAB (o a b : Byte) : fieldB (Machine.Spec.wordAB o a b) = b := by
  rw [wordAB_eq_append, fieldB, BitVec.extractLsb'_append_eq_of_le (by decide),
    BitVec.extractLsb'_append_eq_of_le (by decide), BitVec.extractLsb'_append_eq_right]

@[simp] theorem fieldRsv_wordAB (o a b : Byte) : fieldRsv (Machine.Spec.wordAB o a b) = 0 := by
  rw [wordAB_eq_append, fieldRsv, BitVec.extractLsb'_append_eq_of_le (by decide),
    BitVec.extractLsb'_append_eq_of_le (by decide), BitVec.extractLsb'_append_eq_left]
  rfl

/-- A word of format A is one of format AB with operand B zero (R112). -/
theorem wordA_eq_wordAB (o a : Byte) : Machine.Spec.wordA o a = Machine.Spec.wordAB o a 0 := by
  simp [Machine.Spec.wordA, Machine.Spec.wordAB]

/-- A word decodes to a command exactly when its four fields are the command's: a field that the format does not use
must be zero, and so is the operand that the command then lacks (R112, R114). -/
theorem decode_eq_ok_iff_fields {w : Word} {i : Instr} :
    decode w = .ok i ↔ fieldOpc w = i.mnemonic.opc ∧ fieldRsv w = 0 ∧ fieldB w = i.opB ∧ fieldA w = i.opA := by
  rw [decode_eq_ok_iff, masked_eq_pattern_iff, checkZeros_eq_none_iff, and_assoc]
  refine and_congr_right fun _ => ?_
  cases i <;>
    simp [Instr.mnemonic, Mnemonic.format, Mnemonic.instr, Instr.opA, Instr.opB, and_assoc, and_comm]

/-- One word alone decodes to a command: its OPC and operands as format AB writes them (R112, R114). -/
theorem decode_eq_ok_iff_wordAB {w : Word} {i : Instr} :
    decode w = .ok i ↔ w = Machine.Spec.wordAB i.mnemonic.opc i.opA i.opB := by
  rw [decode_eq_ok_iff_fields, word_eq_iff_fields]
  simp

/-- For a command without an operand B that word is the one of format A (R112). -/
theorem decode_eq_ok_iff_wordA {w : Word} {i : Instr} (h : i.opB = 0) :
    decode w = .ok i ↔ w = Machine.Spec.wordA i.mnemonic.opc i.opA := by
  rw [decode_eq_ok_iff_wordAB, wordA_eq_wordAB, h]

end Sys2Proof

namespace Sys2Proof.Machine

variable {o : IdxOrder} {buf : Vector Byte 8} {s : State} {a b : Byte} {p w v i j n k : Nat}

/-! ### Commands that abort (R305) -/

/-- A body that raises before it writes anything is a command that aborts in the state it was issued in. -/
theorem runCommand_of_raise {body : State → Res Unit} {e : ErrKind} (h : body (prologue s) = .raise e (prologue s)) :
    runCommand body s = Spec.abort s e.code := by
  have hcode : e.code ≠ 0#8 := e.code_ne_zero
  rw [runCommand_eq, h, epilogue_raise]
  simp [State.finish, prologue, Status.finish, Spec.abort, hcode]

/-! ### Named writes after the prologue -/

@[simp] theorem prologue_setResult (s : State) (r : Word) : (prologue s).setResult r = prologue (s.setResult r) := rfl
@[simp] theorem prologue_setBuf (s : State) (b : Vector Byte 8) : (prologue s).setBuf b = prologue (s.setBuf b) := rfl

/-! ### Bits of the buffer (R160) -/

/-- R13's bit of the buffer is the model's, as a number. -/
theorem Spec.bit_eq_bitByte (buf : Vector Byte 8) (i : Nat) : Spec.bit buf i = Spec.bitByte (getBit buf i) :=
  shift_and_one _ _

/-- The word that GETBIT answers is R13's bit, extended with zeros (R162). -/
theorem bitAt_getBit (buf : Vector Byte 8) (i : Nat) : bitAt 0 (getBit buf i) = (Spec.bit buf i).setWidth 32 := by
  rw [Spec.bit_eq_bitByte]
  cases getBit buf i <;> rfl

/-! ### The bits of an index and the offsets of its field (R86) -/

theorem Spec.fieldBit_eq_testBit (o : IdxOrder) (w v j : Nat) :
    Spec.fieldBit o w v j = v.testBit (fieldWeight o w j) := by
  cases o <;> rfl

theorem fieldWeight_lt (hj : j < w) : fieldWeight o w j < w := by
  cases o with
  | msbFirst => simp only [fieldWeight]; omega
  | lsbFirst => exact hj

/-- In both bit orders the weight of an offset, taken as an offset, has that offset as its weight. -/
theorem fieldWeight_fieldWeight (hj : j < w) : fieldWeight o w (fieldWeight o w j) = j := by
  cases o with
  | msbFirst => simp only [fieldWeight]; omega
  | lsbFirst => rfl

/-- Different offsets of a field have different weights. -/
theorem fieldWeight_injOn (hi : i < w) (hj : j < w) (h : fieldWeight o w i = fieldWeight o w j) : i = j := by
  rw [← fieldWeight_fieldWeight (o := o) hi, h, fieldWeight_fieldWeight hj]

/-- Two indices that fit a field and have the same bit at each of its offsets are equal. -/
theorem eq_of_testBit_fieldWeight {u : Nat} (hu : u < 2 ^ w) (hv : v < 2 ^ w)
    (h : ∀ j, j < w → u.testBit (fieldWeight o w j) = v.testBit (fieldWeight o w j)) : u = v := by
  refine Nat.eq_of_testBit_eq fun k => ?_
  by_cases hk : k < w
  · have hbit := h (fieldWeight o w k) (fieldWeight_lt hk)
    rwa [fieldWeight_fieldWeight hk] at hbit
  · have hpow : 2 ^ w ≤ 2 ^ k := Nat.pow_le_pow_right Nat.two_pos (Nat.le_of_not_lt hk)
    rw [Nat.testBit_lt_two_pow (hu.trans_le hpow), Nat.testBit_lt_two_pow (hv.trans_le hpow)]

/-! ### The index read from a field (R166) -/

/-- A number gathered from bits has a 1 exactly where one of the bits is placed. -/
theorem testBit_gatherBits (f : Nat → Bool) (g : Nat → Nat) :
    ((List.range n).foldl (fun v j => v ||| ((f j).toNat <<< g j)) 0).testBit k = true ↔
      ∃ j, j < n ∧ g j = k ∧ f j = true := by
  induction n with
  | zero => simp
  | succ n ih =>
    have hplaced : ((f n).toNat <<< g n).testBit k = true ↔ g n = k ∧ f n = true := by
      cases f n with
      | false => simp
      | true => simp [Nat.shiftLeft_eq, Nat.testBit_two_pow]
    rw [List.range_succ, List.foldl_append, List.foldl_cons, List.foldl_nil, Nat.testBit_or, Bool.or_eq_true, ih,
      hplaced]
    simp only [Nat.lt_succ_iff_lt_or_eq, or_and_right, exists_or, exists_eq_left]

theorem testBit_getIndex_iff :
    (getIndex o p w buf).testBit k = true ↔ ∃ j, j < w ∧ fieldWeight o w j = k ∧ getBit buf (p * w + j) = true :=
  testBit_gatherBits (fun j => getBit buf (p * w + j)) (fieldWeight o w)

/-- The bit of the index at an offset of its field is the buffer's bit there (R166). -/
theorem testBit_getIndex (hj : j < w) : (getIndex o p w buf).testBit (fieldWeight o w j) = getBit buf (p * w + j) := by
  rw [Bool.eq_iff_iff, testBit_getIndex_iff]
  constructor
  · rintro ⟨i, hi, hweight, hbit⟩
    rwa [fieldWeight_injOn hi hj hweight] at hbit
  · exact fun hbit => ⟨j, hj, rfl, hbit⟩

/-- An index read from a field of `w` bits is below 2^w (R166). -/
theorem getIndex_lt (o : IdxOrder) (p w : Nat) (buf : Vector Byte 8) : getIndex o p w buf < 2 ^ w := by
  refine Nat.lt_pow_two_of_testBit _ fun k hk => Bool.eq_false_iff.mpr fun hbit => ?_
  obtain ⟨j, hj, rfl, -⟩ := testBit_getIndex_iff.mp hbit
  exact absurd (fieldWeight_lt hj) (Nat.not_lt.mpr hk)

/-- An index put is read back (R169). -/
theorem getIndex_putIndex (hp : p * w + w ≤ 64) (hv : v < 2 ^ w) : getIndex o p w (putIndex o v p w buf) = v := by
  refine eq_of_testBit_fieldWeight (o := o) (getIndex_lt o p w _) hv fun j hj => ?_
  rw [testBit_getIndex hj, getBit_putIndex o v hp, if_pos (by omega), Nat.add_sub_cancel_left]

/-- `putIndex` leaves every bit outside its field as it was (R169). -/
theorem bit_putIndex_outside (hp : p * w + w ≤ 64) (hi : i < p * w ∨ p * w + w ≤ i) :
    Spec.bit (putIndex o v p w buf) i = Spec.bit buf i := by
  rw [Spec.bit_eq_bitByte, Spec.bit_eq_bitByte, getBit_putIndex o v hp, if_neg (by omega)]

/-! ### The fields of a block (R169, R191) -/

/-- The width-7 row has 7 or 8 bytes (R192). -/
theorem w7Bytes_bounds (r : W7Row) : 7 ≤ w7Bytes r ∧ w7Bytes r ≤ 8 := by
  cases r <;> decide

/-- A block is no larger than the buffer (R191). -/
theorem geometry_bytes_le (prm : Params) (hw : 1 ≤ w) (hw7 : w ≤ 7) : (geometry prm w).2 ≤ 8 := by
  rcases hw7.lt_or_eq with hlt | rfl
  · interval_cases w <;> simp [geometry]
  · exact (w7Bytes_bounds prm.w7Bpb).2

/-- The fields of a block fill its bytes, but for width 7, where they fill 56 bits of 7 or 8 bytes (R191, R192). -/
theorem geometry_fields (prm : Params) (hw : 1 ≤ w) (hw7 : w ≤ 7) :
    (w < 7 ∧ (geometry prm w).1 * w = 8 * (geometry prm w).2) ∨
      (w = 7 ∧ (geometry prm w).1 * w = 56 ∧ 56 ≤ 8 * (geometry prm w).2) := by
  rcases hw7.lt_or_eq with hlt | rfl
  · refine .inl ⟨hlt, ?_⟩
    interval_cases w <;> rfl
  · exact .inr ⟨rfl, rfl, Nat.mul_le_mul_left 8 (w7Bytes_bounds prm.w7Bpb).1⟩

/-- Every field of a block lies inside the block's bytes (R169). -/
theorem field_in_block {prm : Params} (hw : 1 ≤ w) (hw7 : w ≤ 7) (hp : p < (geometry prm w).1) :
    p * w + w ≤ 8 * (geometry prm w).2 := by
  have hend : p * w + w ≤ (geometry prm w).1 * w := by
    rw [← Nat.succ_mul]
    exact Nat.mul_le_mul_right w hp
  have := geometry_fields prm hw hw7
  omega

/-- Every field of a block lies inside the buffer. -/
theorem field_in_buffer {prm : Params} (hw : 1 ≤ w) (hw7 : w ≤ 7) (hp : p < (geometry prm w).1) : p * w + w ≤ 64 :=
  (field_in_block hw hw7 hp).trans (Nat.mul_le_mul_left 8 (geometry_bytes_le prm hw hw7))

/-- Every bit of a block's fields lies in one of them: the field at position `i / w`. -/
theorem exists_field {c : Nat} (hw : 1 ≤ w) (hi : i < c * w) : ∃ pos, pos < c ∧ pos * w ≤ i ∧ i < pos * w + w :=
  ⟨i / w, (Nat.div_lt_iff_lt_mul hw).mpr hi, Nat.div_mul_le_self i w, Nat.lt_div_mul_add hw⟩

/-- Settles O29: an index is determined by the bits at the offsets of its field, and the fields of a block fill its
bytes as the geometry table says. -/
theorem indexFieldLaws : Obligations.IndexFieldLaws := by
  intro prm o w hw hw7
  refine ⟨fun pos v buf hpos hv => ?_, fun i hi hseven => ?_⟩
  · have hfield : pos * w + w ≤ 64 := field_in_buffer hw hw7 hpos
    exact ⟨getIndex_putIndex hfield hv, fun i _ hout => bit_putIndex_outside hfield hout, field_in_block hw hw7 hpos⟩
  · have := geometry_fields prm hw hw7
    exact exists_field hw (by omega)

/-- With a configured width, every position below CPB has its field inside the buffer (R57 (e), R167). -/
theorem State.CfgTable.field_in_buffer (h : s.CfgTable) (hcfg : s.status.cfgValid = true) (hp : p < s.cpb.toNat) :
    p * s.cw.toNat + s.cw.toNat ≤ 64 := by
  obtain ⟨hw, hcpb, -⟩ := h hcfg
  exact Machine.field_in_buffer hw (Nat.le_of_lt_succ s.cw.isLt) (hcpb ▸ hp)

/-! ### GETBIT (R162) -/

theorem exec_getbit (a : Byte) (s : State) : exec (.getbit a) s = runCommand (bodyGetbit a) s := rfl

theorem exec_getbit_of_offset (ha : a.toNat ≤ 63) :
    exec (.getbit a) s = Spec.success (s.setResult (bitAt 0 (getBit s.buf a.toNat))) := by
  rw [exec_getbit]
  refine runCommand_of_ok ?_
  simp [bodyGetbit, isBitOffset, ha]

theorem exec_getbit_of_bad_offset (ha : 63 < a.toNat) : exec (.getbit a) s = Spec.abort s 0x11#8 := by
  rw [exec_getbit]
  refine runCommand_of_raise (e := .badOperand) ?_
  simp [bodyGetbit, isBitOffset, ha]

/-- Settles O24: the model's bit is the shift and the mask of R160. -/
theorem getbitReadsOneBit : Obligations.GetbitReadsOneBit := by
  refine ⟨fun w a => decode_eq_ok_iff_wordA rfl, fun s a => ?_⟩
  by_cases ha : a.toNat ≤ 63
  · rw [if_pos ha, exec_getbit_of_offset ha, bitAt_getBit]
    rfl
  · rw [if_neg ha, exec_getbit_of_bad_offset (Nat.lt_of_not_le ha)]

/-! ### SETBIT (R163) -/

theorem exec_setbit (a b : Byte) (s : State) : exec (.setbit a b) s = runCommand (bodySetbit a b) s := rfl

theorem exec_setbit_of_operands (ha : a.toNat ≤ 63) (hb : b.toNat ≤ 1) :
    exec (.setbit a b) s = Spec.success (s.setBuf (setBit s.buf a.toNat (b.toNat == 1))) := by
  rw [exec_setbit]
  refine runCommand_of_ok ?_
  simp [bodySetbit, isBitOffset, isBitValue, ha, hb]

theorem exec_setbit_of_bad_operand (h : 63 < a.toNat ∨ 1 < b.toNat) :
    exec (.setbit a b) s = Spec.abort s 0x11#8 := by
  rw [exec_setbit]
  refine runCommand_of_raise (e := .badOperand) ?_
  simp [bodySetbit, isBitOffset, isBitValue, h]

/-- A bit value is the byte of its truth value (R163). -/
theorem bitByte_of_bit_value (hb : b.toNat ≤ 1) : Spec.bitByte (b.toNat == 1) = b := by
  apply BitVec.eq_of_toNat_eq
  interval_cases b.toNat <;> rfl

/-- Settles O25: a bit read after the bit written, at the offset and elsewhere. -/
theorem setbitWritesOneBit : Obligations.SetbitWritesOneBit := by
  refine ⟨fun w a b => decode_eq_ok_iff_wordAB, fun s a b => ⟨exec_setbit_of_bad_operand, fun ha hb => ?_⟩⟩
  refine ⟨_, exec_setbit_of_operands ha hb, fun i _ => ?_⟩
  rw [Spec.bit_eq_bitByte, Spec.bit_eq_bitByte, getBit_setBit (Nat.lt_succ_of_le ha), apply_ite Spec.bitByte,
    bitByte_of_bit_value hb]

/-! ### BUFCLR (R164) -/

theorem exec_bufclr (s : State) : exec .bufclr s = Spec.success (s.setBuf (Vector.replicate 8 0)) :=
  runCommand_of_ok (body := bodyBufclr) rfl

/-- Settles O26: BUFCLR has format N, and its body writes the zero buffer alone. -/
theorem bufclrClearsTheBuffer : Obligations.BufclrClearsTheBuffer :=
  ⟨fun _ => decode_eq_ok_iff_of_format_n (i := .bufclr) rfl,
    fun s => ⟨_, fun _ h => Vector.getElem_replicate h, exec_bufclr s⟩⟩

/-! ### PUTIDX (R167) -/

theorem exec_putidx (a b : Byte) (s : State) : exec (.putidx a b) s = runCommand (bodyPutidx a b) s := rfl

theorem exec_putidx_unconfigured (hcfg : s.status.cfgValid = false) : exec (.putidx a b) s = Spec.abort s 0x12#8 := by
  rw [exec_putidx]
  refine runCommand_of_raise (e := .stateError) ?_
  simp [bodyPutidx, hcfg]

theorem exec_putidx_of_bad_operand (hcfg : s.status.cfgValid = true)
    (h : 2 ^ s.cw.toNat ≤ a.toNat ∨ s.cpb.toNat ≤ b.toNat) : exec (.putidx a b) s = Spec.abort s 0x11#8 := by
  rw [exec_putidx]
  refine runCommand_of_raise (e := .badOperand) ?_
  simp [bodyPutidx, hcfg, h]

theorem exec_putidx_of_operands (hcfg : s.status.cfgValid = true) (ha : a.toNat < 2 ^ s.cw.toNat)
    (hb : b.toNat < s.cpb.toNat) :
    exec (.putidx a b) s =
      Spec.success (s.setBuf (putIndex s.params.idxOrder a.toNat b.toNat s.cw.toNat s.buf)) := by
  rw [exec_putidx]
  refine runCommand_of_ok ?_
  simp [bodyPutidx, hcfg, ha.not_ge, hb.not_ge]

/-- Settles O27: `putIndex` writes each bit of the index at its offset, and the field lies inside BUF. -/
theorem putidxWritesItsField : Obligations.PutidxWritesItsField := by
  refine ⟨fun w a b => decode_eq_ok_iff_wordAB, fun s a b =>
    ⟨exec_putidx_unconfigured, exec_putidx_of_bad_operand, fun htable hcfg ha hb => ?_⟩⟩
  refine ⟨_, exec_putidx_of_operands hcfg ha hb, fun i _ => ?_⟩
  rw [Spec.bit_eq_bitByte, Spec.bit_eq_bitByte, getBit_putIndex _ _ (htable.field_in_buffer hcfg hb),
    apply_ite Spec.bitByte, Spec.fieldBit_eq_testBit]

/-! ### GETIDX (R168) -/

theorem exec_getidx (a : Byte) (s : State) : exec (.getidx a) s = runCommand (bodyGetidx a) s := rfl

theorem exec_getidx_unconfigured (hcfg : s.status.cfgValid = false) : exec (.getidx a) s = Spec.abort s 0x12#8 := by
  rw [exec_getidx]
  refine runCommand_of_raise (e := .stateError) ?_
  simp [bodyGetidx, hcfg]

theorem exec_getidx_of_bad_position (hcfg : s.status.cfgValid = true) (h : s.cpb.toNat ≤ a.toNat) :
    exec (.getidx a) s = Spec.abort s 0x11#8 := by
  rw [exec_getidx]
  refine runCommand_of_raise (e := .badOperand) ?_
  simp [bodyGetidx, hcfg, h]

theorem exec_getidx_of_position (hcfg : s.status.cfgValid = true) (ha : a.toNat < s.cpb.toNat) :
    exec (.getidx a) s =
      Spec.success (s.setResult (BitVec.ofNat 32 (getIndex s.params.idxOrder a.toNat s.cw.toNat s.buf))) := by
  rw [exec_getidx]
  refine runCommand_of_ok ?_
  simp [bodyGetidx, hcfg, ha.not_ge]

/-- An index of a field of at most 7 bits fits RESULT. -/
theorem toNat_ofNat_getIndex (hw7 : w ≤ 7) : (BitVec.ofNat 32 (getIndex o p w buf)).toNat = getIndex o p w buf := by
  have hlt : getIndex o p w buf < 2 ^ 32 :=
    (getIndex_lt o p w buf).trans_le (Nat.pow_le_pow_right Nat.two_pos (hw7.trans (by decide)))
  exact Nat.mod_eq_of_lt hlt

/-- Settles O28: `getIndex` is below 2^CW, so RESULT holds it whole, and its bits are those of the field. -/
theorem getidxReadsItsField : Obligations.GetidxReadsItsField := by
  refine ⟨fun w a => decode_eq_ok_iff_wordA rfl, fun s a =>
    ⟨exec_getidx_unconfigured, exec_getidx_of_bad_position, fun _ hcfg ha => ?_⟩⟩
  refine ⟨_, exec_getidx_of_position hcfg ha, ?_⟩
  rw [toNat_ofNat_getIndex (Nat.le_of_lt_succ s.cw.isLt)]
  refine ⟨getIndex_lt _ _ _ _, fun j hj => ?_⟩
  rw [Spec.fieldBit_eq_testBit, testBit_getIndex hj, Spec.bit_eq_bitByte]

end Sys2Proof.Machine
end

section
/-! SUPPORT. The code-width range table and the block geometry (R190 to R197): the tables row by row, their laws, and
the commands WIDTH, GEOM and SETCW. -/

namespace Sys2Proof.Machine

variable {s : State} {a : Byte} {prm : Params} {r : Nat × Nat × Nat} {b c m n w : Nat}

/-! ### The range table (R190) -/

theorem selectWidth_mono (h : m ≤ n) : selectWidth m ≤ selectWidth n := by
  unfold selectWidth
  split_ifs <;> omega

/-- The first and the last length of a row are lengths of a table, and the row's width is selected for both. -/
theorem widthRow_ends :
    ∀ r ∈ Spec.widthRows, 1 ≤ r.1 ∧ r.2.1 ≤ 128 ∧ selectWidth r.1 = r.2.2 ∧ selectWidth r.2.1 = r.2.2 := by
  decide

/-- Every length of a row has the row's width: the width at both ends of the row is that one. -/
theorem selectWidth_of_widthRow (hr : r ∈ Spec.widthRows) (hfirst : r.1 ≤ n) (hlast : n ≤ r.2.1) :
    selectWidth n = r.2.2 := by
  obtain ⟨-, -, hwidthFirst, hwidthLast⟩ := widthRow_ends r hr
  exact Nat.le_antisymm (hwidthLast ▸ selectWidth_mono hlast) (hwidthFirst ▸ selectWidth_mono hfirst)

/-- Below 128 each bound of the range table is 2 to the power of its width. -/
theorem lt_two_pow_selectWidth (hn : n < 128) : n < 2 ^ selectWidth n := by
  unfold selectWidth
  split_ifs <;> omega

theorem le_two_pow_selectWidth (hn : n ≤ 128) : n ≤ 2 ^ selectWidth n := by
  rcases hn.lt_or_eq with hlt | rfl
  · exact (lt_two_pow_selectWidth hlt).le
  · decide

/-! ### The geometry table (R191, R192) -/

/-- The rows of R191 are the graph of `geometry` on the widths 1 to 7. -/
theorem geometryRows_eq_map (prm : Params) :
    Spec.geometryRows prm = (List.range' 1 7).map fun w => (w, geometry prm w) := rfl

/-- A row of R191 is a code width with its geometry. -/
theorem mem_geometryRows_iff :
    r ∈ Spec.geometryRows prm ↔ (1 ≤ r.1 ∧ r.1 ≤ 7) ∧ geometry prm r.1 = r.2 := by
  rw [geometryRows_eq_map, List.mem_map]
  constructor
  · rintro ⟨w, hw, rfl⟩
    obtain ⟨hw1, hw8⟩ := List.mem_range'_1.mp hw
    exact ⟨⟨hw1, Nat.le_of_lt_succ hw8⟩, rfl⟩
  · rintro ⟨⟨hw1, hw7⟩, hgeometry⟩
    exact ⟨r.1, List.mem_range'_1.mpr ⟨hw1, Nat.lt_succ_of_le hw7⟩, Prod.ext rfl hgeometry⟩

/-- A block holds at most 8 characters. -/
theorem geometry_chars_le (prm : Params) (w : Nat) : (geometry prm w).1 ≤ 8 := by
  unfold geometry
  split <;> simp

/-- Only the corrected width-7 row has no spare byte (R192). -/
theorem w7Bytes_eq_seven_iff (row : W7Row) : w7Bytes row = 7 ↔ row = .seven := by
  cases row <;> decide

/-- The rows 1 to 6 are in lowest terms. -/
theorem geometry_coprime (prm : Params) (hw : 1 ≤ w) (hw6 : w ≤ 6) :
    (geometry prm w).1.Coprime (geometry prm w).2 := by
  interval_cases w <;> norm_num [geometry]

/-- At the widths 1 to 6 the fields of a block fill its bytes (R196). -/
theorem geometry_fills (prm : Params) (hw : 1 ≤ w) (hw6 : w ≤ 6) :
    (geometry prm w).1 * w = 8 * (geometry prm w).2 := by
  have := geometry_fields prm hw (hw6.trans (by decide))
  omega

/-- Two pairs of characters and bytes that both fill their bytes at width `w` are in the same proportion, so one in
lowest terms divides the other, and is the smaller. -/
theorem coprime_fill_le {c₀ b₀ : Nat} (hcoprime : c₀.Coprime b₀) (hfill₀ : c₀ * w = 8 * b₀) (hw : 0 < w) (hc : 0 < c)
    (hfill : c * w = 8 * b) : c₀ ≤ c ∧ b₀ ≤ b := by
  have hproportion : c * b₀ = c₀ * b := by
    refine Nat.eq_of_mul_eq_mul_left (show 0 < 8 by decide) ?_
    calc 8 * (c * b₀) = c * (c₀ * w) := by rw [hfill₀, Nat.mul_left_comm]
      _ = c₀ * (c * w) := Nat.mul_left_comm ..
      _ = 8 * (c₀ * b) := by rw [hfill, Nat.mul_left_comm]
  have hb : 0 < b := Nat.pos_of_mul_pos_left (hfill ▸ Nat.mul_pos hc hw)
  constructor
  · exact Nat.le_of_dvd hc (hcoprime.dvd_of_dvd_mul_right ⟨b, hproportion⟩)
  · exact Nat.le_of_dvd hb (hcoprime.symm.dvd_of_dvd_mul_left ⟨c, by rw [← hproportion, Nat.mul_comm]⟩)

/-- Each of the rows 1 to 6 is the smallest pair that fills its bytes at its width (R196). -/
theorem geometry_minimal (prm : Params) (hw : 1 ≤ w) (hw6 : w ≤ 6) (hc : 0 < c) (hfill : c * w = 8 * b) :
    (geometry prm w).1 ≤ c ∧ (geometry prm w).2 ≤ b :=
  coprime_fill_le (geometry_coprime prm hw hw6) (geometry_fills prm hw hw6) hw hc hfill

/-- Settles O33: the fields of a block fill its bytes but for width 7, the rows 1 to 6 are in lowest terms, and the
bounds of the range table are the powers of two. -/
theorem geometryLaws : Obligations.GeometryLaws := by
  refine ⟨fun prm w hw hw7 => ?_, fun n _ hn => ⟨fun k hk => ?_, fun hn127 => ?_, ?_⟩⟩
  · have hfields := geometry_fields prm hw hw7
    refine ⟨by omega, geometry_fills prm hw, ?_, fun hw6 c b => geometry_minimal prm hw hw6⟩
    rintro rfl
    refine ⟨rfl, Iff.trans ?_ (w7Bytes_eq_seven_iff prm.w7Bpb)⟩
    change 56 = 8 * w7Bytes prm.w7Bpb ↔ _
    omega
  · exact hk.trans_le (le_two_pow_selectWidth hn)
  · exact lt_two_pow_selectWidth (Nat.lt_succ_of_le hn127)
  · rintro rfl
    rfl

/-! ### WIDTH (R193) -/

theorem exec_width (a : Byte) (s : State) : exec (.width a) s = runCommand (bodyWidth a) s := rfl

theorem exec_width_of_length (ha : 1 ≤ a.toNat) (ha' : a.toNat ≤ 128) :
    exec (.width a) s = Spec.success (s.setResult (BitVec.ofNat 32 (selectWidth a.toNat))) := by
  rw [exec_width]
  refine runCommand_of_ok ?_
  simp [bodyWidth, isTableLength, ha, ha']

theorem exec_width_of_bad_length (h : a.toNat = 0 ∨ 128 < a.toNat) : exec (.width a) s = Spec.abort s 0x11#8 := by
  rw [exec_width]
  refine runCommand_of_raise (e := .badOperand) ?_
  simp [bodyWidth, isTableLength, h]

/-- Settles O30: `selectWidth` is constant on each row of the range table. -/
theorem widthFollowsTheRangeTable : Obligations.WidthFollowsTheRangeTable := by
  refine ⟨fun w a => decode_eq_ok_iff_wordA rfl, fun s a =>
    ⟨fun r hr hfirst hlast => ?_, exec_width_of_bad_length⟩⟩
  obtain ⟨hlow, hhigh, -, -⟩ := widthRow_ends r hr
  rw [exec_width_of_length (hlow.trans hfirst) (hlast.trans hhigh), selectWidth_of_widthRow hr hfirst hlast]
  rfl

/-! ### GEOM (R194) -/

/-- The two fields of GEOM's word do not overlap. -/
theorem geomWord_eq_add (hc : c < 256) : geomWord (c, b) = BitVec.ofNat 32 (c + 256 * b) := by
  have hor : c + 256 * b = c ||| b <<< 8 := by
    rw [Nat.or_comm, ← Nat.shiftLeft_add_eq_or_of_lt hc, Nat.shiftLeft_eq]
    omega
  have hbytes : BitVec.ofNat 32 (b <<< 8) = BitVec.ofNat 32 b <<< 8 := by
    apply BitVec.eq_of_toNat_eq
    simp [Nat.shiftLeft_eq]
  rw [hor, BitVec.ofNat_or, hbytes, geomWord]

theorem exec_geom (a : Byte) (s : State) : exec (.geom a) s = runCommand (bodyGeom a) s := rfl

theorem exec_geom_of_width (ha : 1 ≤ a.toNat) (ha' : a.toNat ≤ 7) :
    exec (.geom a) s = Spec.success (s.setResult (geomWord (geometry s.params a.toNat))) := by
  rw [exec_geom]
  refine runCommand_of_ok ?_
  simp [bodyGeom, isCodeWidth, ha, ha']

theorem exec_geom_of_bad_width (h : a.toNat = 0 ∨ 7 < a.toNat) : exec (.geom a) s = Spec.abort s 0x11#8 := by
  rw [exec_geom]
  refine runCommand_of_raise (e := .badOperand) ?_
  simp [bodyGeom, isCodeWidth, h]

/-- Settles O31: a row of the table is a width with its geometry, and charsPerBlock leaves bits 11:8 free. -/
theorem geomFollowsTheTable : Obligations.GeomFollowsTheTable := by
  refine ⟨fun w a => decode_eq_ok_iff_wordA rfl, fun s a => ⟨fun r hr ha => ?_, exec_geom_of_bad_width⟩⟩
  obtain ⟨⟨hw, hw7⟩, hgeometry⟩ := mem_geometryRows_iff.mp hr
  have hchars : r.2.1 < 256 := hgeometry ▸ (geometry_chars_le s.params r.1).trans_lt (by decide)
  rw [exec_geom_of_width (ha ▸ hw) (ha ▸ hw7), ha, hgeometry, geomWord_eq_add hchars]
  rfl

/-! ### SETCW (R195) -/

@[simp] theorem prologue_configure (s : State) (w : Nat) : (prologue s).configure w = prologue (s.configure w) := rfl

theorem exec_setcw (a : Byte) (s : State) : exec (.setcw a) s = runCommand (bodySetcw a) s := rfl

theorem exec_setcw_of_width (ha : 1 ≤ a.toNat) (ha' : a.toNat ≤ 7) :
    exec (.setcw a) s = Spec.success (s.configure a.toNat) := by
  rw [exec_setcw]
  refine runCommand_of_ok ?_
  simp [bodySetcw, isCodeWidth, ha, ha']

theorem exec_setcw_of_bad_width (h : a.toNat = 0 ∨ 7 < a.toNat) : exec (.setcw a) s = Spec.abort s 0x11#8 := by
  rw [exec_setcw]
  refine runCommand_of_raise (e := .badOperand) ?_
  simp [bodySetcw, isCodeWidth, h]

/-- Settles O32: the body is `configure` alone, with the width and the geometry of the table's row. -/
theorem setcwConfigures : Obligations.SetcwConfigures := by
  refine ⟨fun w a => decode_eq_ok_iff_wordA rfl, fun s a => ⟨fun r hr ha => ?_, exec_setcw_of_bad_width⟩⟩
  obtain ⟨⟨hw, hw7⟩, hgeometry⟩ := mem_geometryRows_iff.mp hr
  rw [exec_setcw_of_width (ha ▸ hw) (ha ▸ hw7), ha, State.configure, hgeometry]

end Sys2Proof.Machine
end

section
/-! SUPPORT. The frequency scanner, the symbol deduplicator and the index lookup (R210 to R216): the end that an
outcome tells, the counts of a text, the deduplicated list, the smallest position, and SCAN, DEDUP and LOOKUP. -/

namespace Sys2Proof.Machine

variable {s t : State} {f : Vector Word 128} {text l : List Byte} {a c : Byte} {i k n : Nat}

/-! ### How a command ended (R150, R305) -/

/-- A body that raises in `t`, but for the prologue's BUSY, is a command that aborts in `t`. -/
theorem runCommand_of_raise_in {body : State → Res Unit} {e : ErrKind}
    (h : body (prologue s) = .raise e (prologue t)) : runCommand body s = Spec.abort t e.code := by
  calc runCommand body s = runCommand (fun _ => .raise e (prologue t)) t := by rw [runCommand_eq, h, runCommand_eq]
    _ = Spec.abort t e.code := runCommand_of_raise rfl

/-- The code 0 in ERRCODE tells that the body succeeded (R301). -/
theorem ok_of_runCommand_errcode {body : State → Res Unit} (h : runCommand body s = .next t) (h0 : t.errcode = 0) :
    ∃ t', body (prologue s) = .ok () t' ∧ t = t'.finish 0 := by
  rw [runCommand_eq] at h
  cases h
  cases hbody : body (prologue s) with
  | ok _ t' => exact ⟨t', rfl, rfl⟩
  | raise e t' =>
    rw [hbody] at h0
    exact absurd h0 e.code_ne_zero

/-- The outcome of an abort holds its code. -/
theorem errcode_of_abort {code : BitVec 8} (h : Spec.abort s code = .next t) : t.errcode = code := by
  cases h
  rfl

/-! ### The counts of a text (R210, R211) -/

/-- The counters after SCAN's writes for the bytes of a text, from counters `f` (R211). -/
def countInto (f : Vector Word 128) (text : List Byte) : Vector Word 128 :=
  text.foldl (fun g b => bumpFreq g b.toNat) f

theorem bumpFreq_getElem (f : Vector Word 128) (b : Byte) (hk : k < 128) :
    (bumpFreq f b.toNat)[k] = f[k] + if b = BitVec.ofNat 8 k then 1 else 0 := by
  have hbyte : b = BitVec.ofNat 8 k ↔ b.toNat = k := by
    rw [← BitVec.toNat_inj, BitVec.toNat_ofNat, Nat.mod_eq_of_lt (by omega)]
  rw [bumpFreq, Vector.getElem_setIfInBounds]
  by_cases hb : b.toNat = k
  · simp [hbyte, hb, hk]
  · simp [hbyte, hb]

/-- A counter grows by the number of the text's bytes that are its code point. -/
theorem countInto_getElem (f : Vector Word 128) (text : List Byte) (hk : k < 128) :
    (countInto f text)[k] = f[k] + BitVec.ofNat 32 (text.count (BitVec.ofNat 8 k)) := by
  induction text generalizing f with
  | nil => simp [countInto]
  | cons b text ih =>
    change (countInto (bumpFreq f b.toNat) text)[k] = _
    rw [ih, bumpFreq_getElem, List.count_cons, BitVec.add_assoc]
    congr 1
    by_cases hb : b = BitVec.ofNat 8 k
    · simp [hb, BitVec.ofNat_add, BitVec.add_comm]
    · simp [hb]

/-- From counters of zero the loop's writes are the counts of R210. -/
theorem countInto_zero (text : List Byte) : countInto (Vector.replicate 128 0) text = Spec.scanCounts text := by
  ext k hk
  rw [countInto_getElem, Spec.scanCounts]
  simp

/-- A counter of a text that is short enough for 32 bits is the number of bytes that are its code point. -/
theorem scanCounts_toNat (hlen : text.length < 2 ^ 32) (hc : c.toNat < 128) :
    ((Spec.scanCounts text)[c.toNat]?.getD 0).toNat = text.count c := by
  have hcount : text.count c < 2 ^ 32 := List.count_le_length.trans_lt hlen
  simpa [Spec.scanCounts, hc] using hcount

theorem isAscii_iff : isAscii text = true ↔ ∀ b ∈ text, b.toNat < 128 := by
  simp [isAscii]

/-- The counters of an ASCII text add up to its length: each byte is counted once (R216). -/
theorem scanCounts_sum (hascii : isAscii text = true) (hlen : text.length < 2 ^ 32) :
    ((Spec.scanCounts text).toList.map BitVec.toNat).sum = text.length := by
  have hcounter (k : Fin 128) :
      (BitVec.ofNat 32 (text.count (BitVec.ofNat 8 k))).toNat =
        (text.map BitVec.toNat : Multiset Nat).count k.val := by
    have hk : (BitVec.ofNat 8 k.val).toNat = k.val := Nat.mod_eq_of_lt (k.isLt.trans (by decide))
    have hcount : text.count (BitVec.ofNat 8 k) < 2 ^ 32 := List.count_le_length.trans_lt hlen
    rw [BitVec.toNat_ofNat, Nat.mod_eq_of_lt hcount, Multiset.coe_count, ← List.count_map_of_injective _ _
      (fun _ _ => BitVec.eq_of_toNat_eq), hk]
  have hrange : ∀ x ∈ (text.map BitVec.toNat : Multiset Nat), x ∈ Finset.range 128 := by
    simpa using isAscii_iff.mp hascii
  calc ((Spec.scanCounts text).toList.map BitVec.toNat).sum
      = ∑ k : Fin 128, (text.map BitVec.toNat : Multiset Nat).count k.val := by
        rw [Spec.scanCounts, Vector.toList_ofFn, List.map_ofFn, List.sum_ofFn]
        exact Finset.sum_congr rfl fun k _ => hcounter k
    _ = ∑ k ∈ Finset.range 128, (text.map BitVec.toNat : Multiset Nat).count k :=
        Fin.sum_univ_eq_sum_range (fun k => (text.map BitVec.toNat : Multiset Nat).count k) 128
    _ = text.length := by rw [Multiset.sum_count_eq_card hrange, Multiset.coe_card, List.length_map]

/-! ### SCAN (R211) -/

/-- Reading one more byte at the front. -/
theorem Memory.readList_cons (m : Memory) (i n : Nat) :
    Memory.readList m i (n + 1) = Memory.read m i :: Memory.readList m (i + 1) n := by
  simp [Memory.readList, List.range_succ_eq_map, Nat.add_assoc, Nat.add_comm 1]

theorem State.sourceBytes_length (s : State) : s.sourceBytes.length = s.srclen.toNat := Memory.readList_length _ _ _

theorem exec_scan (s : State) : exec .scan s = runCommand bodyScan s := rfl

/-- A counting loop that succeeds went over ASCII bytes only, and counted each of them. -/
theorem scanLoop_of_ok (h : scanLoop n i s = .ok () t) :
    isAscii (Memory.readList s.inMem i n) = true ∧
      t = { s with
        freq := countInto s.freq (Memory.readList s.inMem i n)
        ioOutcomes := s.ioOutcomes.drop n } := by
  induction n generalizing i s with
  | zero =>
    cases h
    exact ⟨rfl, rfl⟩
  | succ n ih =>
    rw [scanLoop, readIn_eq] at h
    split_ifs at h with hio
    · cases h
    · rw [Res.andThen_ok] at h
      split_ifs at h with hbyte
      obtain ⟨hascii, rfl⟩ := ih h
      rw [Memory.readList_cons]
      refine ⟨?_, ?_⟩
      · simpa [isAscii_iff, Nat.lt_succ_iff, Nat.le_of_not_lt hbyte] using hascii
      · simp [countInto]

/-- A SCAN that succeeds went over an ASCII source, FREQ holds its counts and INLEN its length. -/
theorem exec_scan_of_success (h : exec .scan s = .next t) (h0 : t.errcode = 0) :
    isAscii s.sourceBytes = true ∧ t.freq = Spec.scanCounts s.sourceBytes ∧ t.inlen = s.srclen := by
  rw [exec_scan] at h
  obtain ⟨t', hbody, rfl⟩ := ok_of_runCommand_errcode h h0
  unfold bodyScan at hbody
  split_ifs at hbody
  obtain ⟨_, s1, hloop, hend⟩ := Res.andThen_eq_ok.mp hbody
  obtain ⟨hascii, rfl⟩ := scanLoop_of_ok hloop
  cases hend
  exact ⟨hascii, countInto_zero _, rfl⟩

/-! ### The deduplicated list (R212) -/

/-- As numbers, the deduplicated list is the code points 0..127 with a nonzero count, in their order. -/
theorem dedupList_map_toNat (f : Vector Word 128) :
    (dedupList f).map BitVec.toNat = (List.range 128).filter fun c => f[c]?.getD 0 != 0 := by
  rw [dedupList, List.map_map]
  refine (List.map_congr_left fun c hc => ?_).trans (List.map_id _)
  have hlt : c < 128 := List.mem_range.mp (List.mem_of_mem_filter hc)
  exact Nat.mod_eq_of_lt (hlt.trans (by decide))

theorem mem_dedupList : c ∈ dedupList f ↔ c.toNat < 128 ∧ f[c.toNat]?.getD 0 ≠ 0 := by
  rw [← List.mem_map_of_injective fun _ _ => BitVec.eq_of_toNat_eq, dedupList_map_toNat]
  simp

theorem dedupList_pairwise (f : Vector Word 128) : (dedupList f).Pairwise fun a b => a.toNat < b.toNat := by
  rw [← List.pairwise_map, dedupList_map_toNat]
  exact List.pairwise_lt_range.filter _

theorem dedupList_length_le (f : Vector Word 128) : (dedupList f).length ≤ 128 := by
  rw [← List.length_map BitVec.toNat, dedupList_map_toNat]
  exact (List.length_filter_le _ _).trans_eq List.length_range

/-- No code point is listed exactly when every counter is zero. -/
theorem dedupList_eq_nil_iff : dedupList f = [] ↔ ∀ c, (h : c < 128) → f[c] = 0 := by
  rw [← List.map_eq_nil_iff (f := BitVec.toNat), dedupList_map_toNat, List.filter_eq_nil_iff]
  refine forall_congr' fun c => ?_
  rw [List.mem_range]
  refine forall_congr' fun h => ?_
  simp [h]

/-- Settles O35: the list is a filter of the ascending list of the code points. -/
theorem dedupListsTheCodePoints : Obligations.DedupListsTheCodePoints :=
  fun f => ⟨fun _ => mem_dedupList, dedupList_pairwise f, dedupList_length_le f⟩

/-! ### DEDUP (R213) -/

theorem exec_dedup (s : State) : exec .dedup s = runCommand bodyDedup s := rfl

theorem exec_dedup_unscanned (hfreq : s.status.freqValid = false) : exec .dedup s = Spec.abort s 0x12#8 := by
  rw [exec_dedup]
  refine runCommand_of_raise (e := .stateError) ?_
  simp [bodyDedup, hfreq]

theorem exec_dedup_of_nil (hfreq : s.status.freqValid = true) (hnil : dedupList s.freq = []) :
    exec .dedup s =
      Spec.abort { s with status := { s.status with alphaValid := false, treeValid := false } } 0x09#8 := by
  rw [exec_dedup]
  refine runCommand_of_raise_in (e := .emptyInput) ?_
  simp [bodyDedup, hfreq, hnil, writeFrom, prologue, Status.start, Status.dedupStart]

theorem exec_dedup_of_ne_nil (hfreq : s.status.freqValid = true) (hne : dedupList s.freq ≠ []) :
    exec .dedup s = Spec.success { s with
      alpha := writeFrom s.alpha 0 (dedupList s.freq)
      tlen := BitVec.ofNat 8 (dedupList s.freq).length
      status := { s.status with alphaValid := true, treeValid := false } } := by
  rw [exec_dedup]
  refine runCommand_of_ok ?_
  simp [bodyDedup, hfreq, hne, prologue, Status.start, Status.dedupStart]

/-- Settles O36: the list is written from entry 0 on, and it is empty exactly when there is no count. -/
theorem dedupBuildsTheAlphabet : Obligations.DedupBuildsTheAlphabet := by
  refine ⟨fun w => decode_eq_ok_iff_of_format_n (i := .dedup) rfl, fun s =>
    ⟨exec_dedup_unscanned, fun hfreq hzero => ?_, fun hfreq ⟨c, hc, hcount⟩ => ?_⟩⟩
  · exact exec_dedup_of_nil hfreq (dedupList_eq_nil_iff.mpr hzero)
  · have hne : dedupList s.freq ≠ [] := fun hnil => hcount (dedupList_eq_nil_iff.mp hnil c hc)
    exact ⟨_, exec_dedup_of_ne_nil hfreq hne, writeFrom_take _ _ (dedupList_length_le _),
      fun k hk => writeFrom_outside _ _ _ (.inr (by omega))⟩

/-- A DEDUP that succeeds makes the deduplicated list the Alphabet; FREQ and INLEN are kept. -/
theorem exec_dedup_of_success (h : exec .dedup s = .next t) (h0 : t.errcode = 0) :
    t.alphabet = dedupList s.freq ∧ t.status.alphaValid = true ∧ t.freq = s.freq ∧ t.inlen = s.inlen := by
  cases hfreq : s.status.freqValid with
  | false =>
    rw [exec_dedup_unscanned hfreq] at h
    exact absurd ((errcode_of_abort h).symm.trans h0) (by decide)
  | true =>
    by_cases hnil : dedupList s.freq = []
    · rw [exec_dedup_of_nil hfreq hnil] at h
      exact absurd ((errcode_of_abort h).symm.trans h0) (by decide)
    · rw [exec_dedup_of_ne_nil hfreq hnil] at h
      cases h
      have hlen : (BitVec.ofNat 8 (dedupList s.freq).length).toNat = (dedupList s.freq).length :=
        Nat.mod_eq_of_lt ((dedupList_length_le s.freq).trans_lt (by decide))
      refine ⟨?_, rfl, rfl, rfl⟩
      rw [State.alphabet, hlen]
      exact writeFrom_take _ _ (dedupList_length_le _)

/-! ### LOOKUP (R214, R215) -/

theorem State.alphabet_getElem? (s : State) (k : Nat) :
    s.alphabet[k]? = if k < s.tlen.toNat then s.alpha[k]? else none := by
  rw [State.alphabet, List.getElem?_take, Vector.getElem?_toList]

/-- The position found is the smallest that holds the code point (R214). -/
theorem lookupIndex_eq_some_iff :
    lookupIndex l c = some k ↔ l[k]? = some c ∧ ∀ j, j < k → l[j]? ≠ some c := by
  rw [lookupIndex, List.findIdx?_eq_some_iff_getElem]
  constructor
  · rintro ⟨hk, hc, hfirst⟩
    refine ⟨by simpa [hk] using hc, fun j hj => ?_⟩
    simpa [hj.trans hk] using hfirst j hj
  · rintro ⟨hc, hfirst⟩
    obtain ⟨hk, hget⟩ := List.getElem?_eq_some_iff.mp hc
    refine ⟨hk, by simpa using hget, fun j hj => ?_⟩
    simpa [hj.trans hk] using hfirst j hj

theorem lookupIndex_eq_none_iff : lookupIndex l c = none ↔ c ∉ l := by
  rw [lookupIndex, List.findIdx?_eq_none_iff]
  constructor
  · intro hall hmem
    simpa using hall c hmem
  · rintro hnot x hx
    simpa using fun hxc : x = c => hnot (hxc ▸ hx)

@[simp] theorem prologue_alphabet (s : State) : (prologue s).alphabet = s.alphabet := rfl

theorem exec_lookup (a : Byte) (s : State) : exec (.lookup a) s = runCommand (bodyLookup a) s := rfl

theorem exec_lookup_without_alphabet (halpha : s.status.alphaValid = false) :
    exec (.lookup a) s = Spec.abort s 0x12#8 := by
  rw [exec_lookup]
  refine runCommand_of_raise (e := .stateError) ?_
  simp [bodyLookup, halpha]

theorem exec_lookup_of_none (halpha : s.status.alphaValid = true) (hnone : lookupIndex s.alphabet a = none) :
    exec (.lookup a) s = Spec.abort s 0x04#8 := by
  rw [exec_lookup]
  refine runCommand_of_raise (e := .characterNotInAlphabet) ?_
  simp [bodyLookup, halpha, hnone]

theorem exec_lookup_of_some (halpha : s.status.alphaValid = true) (hsome : lookupIndex s.alphabet a = some k) :
    exec (.lookup a) s = Spec.success (s.setResult (BitVec.ofNat 32 k)) := by
  rw [exec_lookup]
  refine runCommand_of_ok ?_
  simp [bodyLookup, halpha, hsome]

/-- Settles O37: the entries of the Alphabet are those of ALPHA below TLEN, and `lookupIndex` finds the first. -/
theorem lookupFindsTheFirst : Obligations.LookupFindsTheFirst := by
  refine ⟨fun w a => decode_eq_ok_iff_wordA rfl, fun s a =>
    ⟨exec_lookup_without_alphabet, fun halpha habsent => ?_, fun halpha k hk hget hfirst => ?_⟩⟩
  · refine exec_lookup_of_none halpha (lookupIndex_eq_none_iff.mpr fun hmem => ?_)
    obtain ⟨k, hk⟩ := List.mem_iff_getElem?.mp hmem
    rw [State.alphabet_getElem?] at hk
    split_ifs at hk with hlt
    exact habsent k hlt hk
  · refine exec_lookup_of_some halpha (lookupIndex_eq_some_iff.mpr ⟨?_, fun j hj => ?_⟩)
    · rw [State.alphabet_getElem?, if_pos hk, hget]
    · rw [State.alphabet_getElem?, if_pos (hj.trans hk)]
      exact hfirst j hj

/-- LOOKUP of a member of the Alphabet succeeds. -/
theorem exec_lookup_of_mem (halpha : s.status.alphaValid = true) (hmem : a ∈ s.alphabet) :
    ∃ t, exec (.lookup a) s = .next t ∧ t.errcode = 0 := by
  cases hindex : lookupIndex s.alphabet a with
  | none => exact absurd hmem (lookupIndex_eq_none_iff.mp hindex)
  | some k => exact ⟨_, exec_lookup_of_some halpha hindex, rfl⟩

/-! ### SCAN, then DEDUP (R216) -/

/-- Every byte of an ASCII text has a count, so the text's own deduplicated list holds it. -/
theorem mem_dedupList_scanCounts (hascii : isAscii text = true) (hlen : text.length < 2 ^ 32) (hc : c ∈ text) :
    c ∈ dedupList (Spec.scanCounts text) := by
  have hlt : c.toNat < 128 := isAscii_iff.mp hascii c hc
  refine mem_dedupList.mpr ⟨hlt, fun hzero => ?_⟩
  have hcount : text.count c = 0 := by rw [← scanCounts_toNat hlen hlt, hzero]; rfl
  exact absurd hc (List.count_eq_zero.mp hcount)

/-- Settles O38: SCAN leaves the counts of an ASCII source, and DEDUP lists the code points they count. -/
theorem scanThenDedupLaw : Obligations.ScanThenDedupLaw := by
  intro s t u hscan hscan0 hdedup hdedup0
  obtain ⟨hascii, htfreq, htinlen⟩ := exec_scan_of_success hscan hscan0
  obtain ⟨halphabet, halpha, hufreq, huinlen⟩ := exec_dedup_of_success hdedup hdedup0
  have hfreq : u.freq = Spec.scanCounts s.sourceBytes := hufreq.trans htfreq
  have hinlen : u.inlen = s.srclen := huinlen.trans htinlen
  have hlen : s.sourceBytes.length < 2 ^ 32 := s.sourceBytes_length ▸ s.srclen.isLt
  rw [htfreq] at halphabet
  refine ⟨halphabet, hinlen, ?_, fun c hc => ?_, fun b hb => ?_⟩
  · rw [hfreq, hinlen, scanCounts_sum hascii hlen, s.sourceBytes_length]
  · rw [halphabet] at hc
    rw [hfreq, Nat.one_le_iff_ne_zero]
    exact fun hzero => (mem_dedupList.mp hc).2 (BitVec.eq_of_toNat_eq hzero)
  · have hmem : b ∈ u.alphabet := halphabet ▸ mem_dedupList_scanCounts hascii hlen hb
    exact ⟨hmem, exec_lookup_of_mem halpha hmem⟩

end Sys2Proof.Machine
end

section
/-! SUPPORT. The tree of the Alphabet's frequencies (R240 to R246): the order of the keys, a turn of the merge loop, the
stages of a build with what each stage keeps, the in-order list, and TREE. -/

namespace Sys2Proof.Machine

variable {s : State} {f : Vector Word 128} {alphabet : List Byte} {nodes more : List Node} {live : List Nat} {nd : Node}
  {fuel fuel' k n x y z : Nat}

/-! ### The order of extraction (R241) -/

theorem keyBefore_iff : keyBefore nodes x y = true ↔ Spec.keyLess nodes x y := by
  simp [keyBefore, Spec.keyLess]

theorem Spec.keyLess.trans (hxy : Spec.keyLess nodes x y) (hyz : Spec.keyLess nodes y z) : Spec.keyLess nodes x z := by
  simp only [Spec.keyLess] at *
  omega

theorem Spec.keyLess.asymm (h : Spec.keyLess nodes x y) : ¬ Spec.keyLess nodes y x := by
  simp only [Spec.keyLess] at *
  omega

theorem Spec.keyLess_of_not (hne : x ≠ y) (hnot : ¬ Spec.keyLess nodes x y) : Spec.keyLess nodes y x := by
  simp only [Spec.keyLess] at *
  omega

/-- Node `x` is the argmin of `key` over the live nodes (R240). -/
def IsArgmin (nodes : List Node) (live : List Nat) (x : Nat) : Prop :=
  x ∈ live ∧ ∀ z ∈ live, z ≠ x → Spec.keyLess nodes x z

/-- One more live node that is not before some live node does not change the argmin. -/
theorem IsArgmin.cons (h : IsArgmin nodes live x) (hy : y ∈ live) (hle : ¬ Spec.keyLess nodes z y) :
    IsArgmin nodes (z :: live) x := by
  refine ⟨List.mem_cons_of_mem z h.1, fun u hu hux => ?_⟩
  obtain rfl | hu := List.mem_cons.mp hu
  · by_cases hyu : y = u
    · exact h.2 u (hyu ▸ hy) hux
    · have hlt : Spec.keyLess nodes y u := Spec.keyLess_of_not (Ne.symm hyu) hle
      by_cases hyx : y = x
      · exact hyx ▸ hlt
      · exact (h.2 y hy hyx).trans hlt
  · exact h.2 u hu hux

theorem IsArgmin.perm {live' : List Nat} (h : IsArgmin nodes live x) (hperm : live.Perm live') :
    IsArgmin nodes live' x :=
  ⟨hperm.mem_iff.mp h.1, fun z hz => h.2 z (hperm.mem_iff.mpr hz)⟩

theorem minLive_isArgmin (nodes : List Node) (x : Nat) (live : List Nat) :
    IsArgmin nodes (x :: live) (minLive nodes x live) := by
  induction live generalizing x with
  | nil => exact ⟨List.mem_cons_self, fun z hz hne => absurd (List.mem_singleton.mp hz) hne⟩
  | cons y live ih =>
    rw [minLive]
    by_cases hyx : keyBefore nodes y x = true
    · rw [if_pos hyx]
      exact (ih y).cons List.mem_cons_self (keyBefore_iff.mp hyx).asymm
    · rw [if_neg hyx]
      exact ((ih x).cons List.mem_cons_self fun h => hyx (keyBefore_iff.mpr h)).perm (List.Perm.swap x y live)

/-! ### The merge loop (R240) -/

theorem mergeLoop_of_single (fuel : Nat) (nodes : List Node) (x : Nat) :
    mergeLoop fuel nodes [x] = (nodes, [x]) := by
  cases fuel with
  | zero => rfl
  | succ fuel => simp [mergeLoop, minLive]

/-- A turn with two live nodes or more extracts the argmin, then the argmin of the others, and adds their merge. -/
theorem mergeLoop_turn (fuel : Nat) (nodes : List Node) (hlive : 2 ≤ live.length) :
    ∃ x y, IsArgmin nodes live x ∧ IsArgmin nodes (live.erase x) y ∧
      mergeLoop (fuel + 1) nodes live =
        mergeLoop fuel (nodes ++ [mergeNode nodes x y]) ((live.erase x).erase y ++ [nodes.length]) := by
  cases live with
  | nil => exact absurd hlive (by simp)
  | cons x0 rest0 =>
    have hx := minLive_isArgmin nodes x0 rest0
    have hlen := List.length_erase_of_mem hx.1
    cases hrest : (x0 :: rest0).erase (minLive nodes x0 rest0) with
    | nil =>
      rw [hrest, List.length_nil] at hlen
      omega
    | cons y0 rest1 =>
      refine ⟨_, _, hx, hrest ▸ minLive_isArgmin nodes y0 rest1, ?_⟩
      simp only [mergeLoop, hrest]

/-! ### The stages of a build (R240)

`Built f alphabet nodes live` says that a build reaches the nodes `nodes` with the live nodes `live`. -/

/-- The leaves are the first stage; a turn extracts the argmin `x`, then the argmin `y` of the others. -/
inductive Built (f : Vector Word 128) (alphabet : List Byte) : List Node → List Nat → Prop
  | leaves : Built f alphabet (alphabet.map (leafNode f)) (List.range alphabet.length)
  | merge {nodes : List Node} {live : List Nat} {x y : Nat} (built : Built f alphabet nodes live)
      (left : IsArgmin nodes live x) (right : IsArgmin nodes (live.erase x) y) :
      Built f alphabet (nodes ++ [mergeNode nodes x y]) ((live.erase x).erase y ++ [nodes.length])

/-- A turn takes two live nodes and adds one. -/
theorem length_live_merge (hx : IsArgmin nodes live x) (hy : IsArgmin nodes (live.erase x) y) :
    ((live.erase x).erase y ++ [k]).length + 1 = live.length := by
  have hxlen := List.length_erase_add_one hx.1
  have hylen := List.length_erase_add_one hy.1
  rw [List.length_append, List.length_singleton]
  omega

/-- From a stage with a live node, the loop ends in a stage with one live node when it has a turn for each other. -/
theorem mergeLoop_built (h : Built f alphabet nodes live) (hpos : 1 ≤ live.length) (hfuel : live.length ≤ fuel + 1) :
    ∃ root, (mergeLoop fuel nodes live).2 = [root] ∧
      Built f alphabet (mergeLoop fuel nodes live).1 (mergeLoop fuel nodes live).2 := by
  induction fuel generalizing nodes live with
  | zero =>
    obtain ⟨root, rfl⟩ := List.length_eq_one_iff.mp (show live.length = 1 by omega)
    exact ⟨root, rfl, h⟩
  | succ fuel ih =>
    by_cases hone : live.length = 1
    · obtain ⟨root, rfl⟩ := List.length_eq_one_iff.mp hone
      rw [mergeLoop_of_single]
      exact ⟨root, rfl, h⟩
    · obtain ⟨x, y, hx, hy, hturn⟩ := mergeLoop_turn fuel nodes (live := live) (by omega)
      have hlen := length_live_merge (k := nodes.length) hx hy
      rw [hturn]
      exact ih (h.merge hx hy) (by omega) (by omega)

theorem exists_root_buildTree (f : Vector Word 128) (hpos : 1 ≤ alphabet.length) :
    ∃ root, (buildTree f alphabet).2 = [root] ∧ Built f alphabet (buildTree f alphabet).1 [root] := by
  obtain ⟨root, hroot, hbuilt⟩ := mergeLoop_built (fuel := alphabet.length) (.leaves (f := f) (alphabet := alphabet))
    (by simpa using hpos) (by simp)
  exact ⟨root, hroot, hroot ▸ hbuilt⟩

/-! ### What a stage keeps: counts and node numbers -/

/-- Each turn writes one node more and leaves one live node less. -/
theorem Built.length_add (h : Built f alphabet nodes live) : nodes.length + live.length = 2 * alphabet.length := by
  induction h with
  | leaves =>
    rw [List.length_map, List.length_range]
    omega
  | @merge nodes live x y _ hx hy ih =>
    have hlen := length_live_merge (k := nodes.length) hx hy
    rw [List.length_append, List.length_singleton]
    omega

theorem Built.length_le (h : Built f alphabet nodes live) : alphabet.length ≤ nodes.length := by
  induction h with
  | leaves => exact List.length_map _ |>.ge
  | merge _ _ _ ih =>
    rw [List.length_append]
    omega

theorem Built.lt_length (h : Built f alphabet nodes live) (hz : z ∈ live) : z < nodes.length := by
  induction h with
  | leaves => simpa using hz
  | merge _ _ _ ih =>
    rw [List.length_append, List.length_singleton]
    obtain hz | hz := List.mem_append.mp hz
    · have := ih (List.mem_of_mem_erase (List.mem_of_mem_erase hz))
      omega
    · rw [List.mem_singleton.mp hz]
      omega

theorem Built.live_nodup (h : Built f alphabet nodes live) : live.Nodup := by
  induction h with
  | leaves => exact List.nodup_range
  | merge built _ _ ih =>
    refine List.nodup_append.mpr ⟨(ih.erase _).erase _, List.nodup_singleton _, fun z hz w hw => ?_⟩
    have := built.lt_length (List.mem_of_mem_erase (List.mem_of_mem_erase hz))
    rw [List.mem_singleton.mp hw]
    omega

/-- The node written last is live. -/
theorem Built.last_mem_live (h : Built f alphabet nodes live) (hpos : 1 ≤ alphabet.length) :
    nodes.length - 1 ∈ live := by
  cases h with
  | leaves =>
    rw [List.length_map, List.mem_range]
    omega
  | merge => simp

/-- A node of a stage with at most 128 leaves has a number of 8 bits. -/
theorem Built.number_lt (h : Built f alphabet nodes live) (hn : alphabet.length ≤ 128) (hx : x ∈ live) : x < 256 := by
  have hlen := h.length_add
  have hlt := h.lt_length hx
  omega

/-! ### What a stage keeps: the nodes written -/

/-- The leaves stand first, in Alphabet order. -/
theorem Built.getElem?_leaf (h : Built f alphabet nodes live) (hk : k < alphabet.length) :
    nodes[k]? = some (leafNode f alphabet[k]) := by
  induction h with
  | leaves => simp [hk]
  | merge built _ _ ih => rw [List.getElem?_append_left (hk.trans_le built.length_le), ih]

theorem mergeNode_not_leaf (nodes : List Node) (x y : Nat) : ¬ (mergeNode nodes x y).isLeaf = true :=
  Bool.false_ne_true

theorem mergeNode_left (hx : x < 256) : (mergeNode nodes x y).left.toNat = x := Nat.mod_eq_of_lt hx

theorem mergeNode_right (hy : y < 256) : (mergeNode nodes x y).right.toNat = y := Nat.mod_eq_of_lt hy

/-- An entry of `nodes ++ [nd]` is an old one or `nd` itself. -/
theorem getElem?_concat_cases {m : Node} (h : (nodes ++ [nd])[k]? = some m) :
    nodes[k]? = some m ∨ k = nodes.length ∧ m = nd := by
  rw [List.getElem?_append] at h
  split_ifs at h with hk
  · exact .inl h
  · right
    rw [List.getElem?_singleton] at h
    split_ifs at h with hz
    exact ⟨by omega, (Option.some.inj h).symm⟩

/-- The nodes after the leaves are internal, and their children are older than they are. -/
theorem Built.children_lt (h : Built f alphabet nodes live) (hn : alphabet.length ≤ 128) (hnd : nodes[k]? = some nd)
    (hk : alphabet.length ≤ k) : nd.isLeaf = false ∧ nd.left.toNat < k ∧ nd.right.toNat < k := by
  induction h with
  | leaves => simp [hk] at hnd
  | @merge nodes live x y built hx hy ih =>
    obtain hold | ⟨rfl, rfl⟩ := getElem?_concat_cases hnd
    · exact ih hold
    · have hymem : y ∈ live := List.mem_of_mem_erase hy.1
      rw [mergeNode_left (built.number_lt hn hx.1), mergeNode_right (built.number_lt hn hymem)]
      exact ⟨rfl, built.lt_length hx.1, built.lt_length hymem⟩

/-! ### Live nodes, and each node as the merge of two of them (R240, R242) -/

theorem liveAt_append (hk : k ≤ nodes.length) : Spec.liveAt (nodes ++ more) n k z ↔ Spec.liveAt nodes n k z := by
  refine and_congr_right fun _ => forall_congr' fun j => forall_congr' fun _ => forall_congr' fun hj => ?_
  rw [List.getElem?_append_left (hj.trans_le hk)]

theorem keyLess_append (hx : x < nodes.length) (hy : y < nodes.length) :
    Spec.keyLess (nodes ++ more) x y ↔ Spec.keyLess nodes x y := by
  rw [Spec.keyLess, Spec.keyLess, List.getElem?_append_left hx, List.getElem?_append_left hy]

theorem mergeNode_append (hx : x < nodes.length) (hy : y < nodes.length) :
    mergeNode (nodes ++ more) x y = mergeNode nodes x y := by
  rw [mergeNode, mergeNode, List.getElem?_append_left hx, List.getElem?_append_left hy]

/-- After one more node, the live nodes are the new one and the old ones that are not its children. -/
theorem liveAt_concat (hn : n ≤ nodes.length) : Spec.liveAt (nodes ++ [nd]) n (nodes.length + 1) z ↔
    z ≤ nodes.length ∧ nd.left.toNat ≠ z ∧ nd.right.toNat ≠ z ∧
      ∀ j, n ≤ j → j < nodes.length → (nodes[j]?.getD default).left.toNat ≠ z ∧
        (nodes[j]?.getD default).right.toNat ≠ z := by
  have hold (j) (hj : j < nodes.length) : (nodes ++ [nd])[j]? = nodes[j]? := List.getElem?_append_left hj
  have hnew : (nodes ++ [nd])[nodes.length]? = some nd := List.getElem?_concat_length
  constructor
  · rintro ⟨hz, hchild⟩
    have hlast := hchild nodes.length hn (by omega)
    rw [hnew] at hlast
    refine ⟨by omega, hlast.1, hlast.2, fun j hnj hj => ?_⟩
    have := hchild j hnj (by omega)
    rwa [hold j hj] at this
  · rintro ⟨hz, hleft, hright, hchild⟩
    refine ⟨by omega, fun j hnj hj => ?_⟩
    obtain rfl | hj : j = nodes.length ∨ j < nodes.length := by omega
    · rw [hnew]
      exact ⟨hleft, hright⟩
    · rw [hold j hj]
      exact hchild j hnj hj

/-- The live nodes of a stage are those of R240: written, and no child of an internal node. -/
theorem Built.mem_live_iff (h : Built f alphabet nodes live) (hn : alphabet.length ≤ 128) :
    z ∈ live ↔ Spec.liveAt nodes alphabet.length nodes.length z := by
  induction h with
  | leaves =>
    rw [List.mem_range, List.length_map, Spec.liveAt]
    exact (and_iff_left fun j _ _ => by omega).symm
  | @merge nodes live x y built hx hy ih =>
    have hymem : y ∈ live := List.mem_of_mem_erase hy.1
    have hxlt := built.lt_length hx.1
    have hylt := built.lt_length hymem
    rw [List.length_append, List.length_singleton, liveAt_concat built.length_le,
      mergeNode_left (built.number_lt hn hx.1), mergeNode_right (built.number_lt hn hymem), List.mem_append,
      (built.live_nodup.erase x).mem_erase_iff, built.live_nodup.mem_erase_iff, List.mem_singleton, ih]
    constructor
    · rintro (⟨hzy, hzx, hz, hchild⟩ | rfl)
      · exact ⟨hz.le, Ne.symm hzx, Ne.symm hzy, hchild⟩
      · refine ⟨le_rfl, hxlt.ne, hylt.ne, fun j hnj hj => ?_⟩
        obtain ⟨_, hleft, hright⟩ := built.children_lt hn (List.getElem?_eq_getElem hj) hnj
        rw [List.getElem?_eq_getElem hj, Option.getD_some]
        exact ⟨(hleft.trans hj).ne, (hright.trans hj).ne⟩
    · rintro ⟨hz, hzx, hzy, hchild⟩
      obtain rfl | hlt : z = nodes.length ∨ z < nodes.length := by omega
      · exact .inr rfl
      · exact .inl ⟨Ne.symm hzy, Ne.symm hzx, hlt, hchild⟩

/-- Node `k` is the merge of the two nodes of smallest key that are live when it is made, the smaller one on the left
(R240, R242). -/
def MergesTwoSmallest (nodes : List Node) (n k : Nat) : Prop :=
  ∃ x y, Spec.liveAt nodes n k x ∧ Spec.liveAt nodes n k y ∧ Spec.keyLess nodes x y ∧
    (∀ z, Spec.liveAt nodes n k z → z ≠ x → z ≠ y → Spec.keyLess nodes y z) ∧
    nodes[k]? = some (mergeNode nodes x y)

/-- Later nodes do not change how node `k` was made. -/
theorem MergesTwoSmallest.append (h : MergesTwoSmallest nodes n k) (hk : k < nodes.length) :
    MergesTwoSmallest (nodes ++ more) n k := by
  obtain ⟨x, y, hx, hy, hxy, hmin, hnode⟩ := h
  have hxlt : x < nodes.length := hx.1.trans hk
  have hylt : y < nodes.length := hy.1.trans hk
  refine ⟨x, y, (liveAt_append hk.le).mpr hx, (liveAt_append hk.le).mpr hy, (keyLess_append hxlt hylt).mpr hxy,
    fun z hz hzx hzy => ?_, ?_⟩
  · have hz := (liveAt_append hk.le).mp hz
    exact (keyLess_append hylt (hz.1.trans hk)).mpr (hmin z hz hzx hzy)
  · rw [List.getElem?_append_left hk, mergeNode_append hxlt hylt, hnode]

theorem Built.mergesTwoSmallest (h : Built f alphabet nodes live) (hn : alphabet.length ≤ 128)
    (hnk : alphabet.length ≤ k) (hk : k < nodes.length) : MergesTwoSmallest nodes alphabet.length k := by
  induction h with
  | leaves =>
    rw [List.length_map] at hk
    omega
  | @merge nodes live x y built hx hy ih =>
    rw [List.length_append, List.length_singleton] at hk
    obtain hold | rfl : k < nodes.length ∨ k = nodes.length := by omega
    · exact (ih hold).append hold
    · have hlive {z : Nat} : Spec.liveAt (nodes ++ [mergeNode nodes x y]) alphabet.length nodes.length z ↔ z ∈ live :=
        (liveAt_append le_rfl).trans (built.mem_live_iff hn).symm
      obtain ⟨hyx, hymem⟩ := built.live_nodup.mem_erase_iff.mp hy.1
      have hxlt := built.lt_length hx.1
      have hylt := built.lt_length hymem
      refine ⟨x, y, hlive.mpr hx.1, hlive.mpr hymem, (keyLess_append hxlt hylt).mpr (hx.2 y hymem hyx),
        fun z hz hzx hzy => ?_, ?_⟩
      · have hz := hlive.mp hz
        refine (keyLess_append hylt (built.lt_length hz)).mpr (hy.2 z ?_ hzy)
        exact built.live_nodup.mem_erase_iff.mpr ⟨hzx, hz⟩
      · rw [mergeNode_append hxlt hylt, List.getElem?_concat_length]

/-! ### The finished build (R240, R243) -/

theorem buildTree_length (f : Vector Word 128) (hpos : 1 ≤ alphabet.length) :
    (buildTree f alphabet).1.length = 2 * alphabet.length - 1 := by
  obtain ⟨root, _, hbuilt⟩ := exists_root_buildTree f hpos
  have hlen := hbuilt.length_add
  rw [List.length_singleton] at hlen
  omega

/-- The one live node left is the node written last. -/
theorem buildTree_live (f : Vector Word 128) (hpos : 1 ≤ alphabet.length) :
    (buildTree f alphabet).2 = [2 * alphabet.length - 2] := by
  obtain ⟨root, hroot, hbuilt⟩ := exists_root_buildTree f hpos
  have hlast := List.mem_singleton.mp (hbuilt.last_mem_live hpos)
  rw [buildTree_length f hpos] at hlast
  rw [hroot, ← hlast]
  congr 1

theorem treeRoot_buildTree (f : Vector Word 128) (hpos : 1 ≤ alphabet.length) :
    treeRoot (buildTree f alphabet) = 2 * alphabet.length - 2 := by
  rw [treeRoot, buildTree_live f hpos, List.headD_cons]

/-- A finished build is a stage. -/
theorem built_buildTree (f : Vector Word 128) (hpos : 1 ≤ alphabet.length) :
    Built f alphabet (buildTree f alphabet).1 [2 * alphabet.length - 2] := by
  obtain ⟨root, hroot, hbuilt⟩ := exists_root_buildTree f hpos
  rwa [← hroot, buildTree_live f hpos] at hbuilt

/-- Settles O39: each turn of the loop extracts two argmins, and what it writes stays as it is. -/
theorem treeMergesTheTwoSmallest : Obligations.TreeMergesTheTwoSmallest := by
  intro f alphabet hpos hn
  have hbuilt := built_buildTree f hpos
  have hlen := buildTree_length f hpos
  refine ⟨hlen, treeRoot_buildTree f hpos, fun k hk => ?_, fun k hnk hk => ?_⟩
  · exact ⟨alphabet[k], List.getElem?_eq_getElem hk, hbuilt.getElem?_leaf hk⟩
  · exact hbuilt.mergesTwoSmallest hn hnk (hk.trans_eq hlen.symm)

/-! ### The in-order list (R244) -/

/-- The children of an internal node are older than it is, so that a walk down the tree ends. -/
def ChildrenOlder (nodes : List Node) : Prop :=
  ∀ (k : Nat) (nd : Node), nodes[k]? = some nd → nd.isLeaf = false → nd.left.toNat < k ∧ nd.right.toNat < k

theorem Built.childrenOlder (h : Built f alphabet nodes live) (hn : alphabet.length ≤ 128) : ChildrenOlder nodes := by
  intro k nd hnd hinternal
  by_cases hk : k < alphabet.length
  · rw [h.getElem?_leaf hk] at hnd
    cases hnd
    cases hinternal
  · exact (h.children_lt hn hnd (by omega)).2

theorem inorder_leaf (hnd : nodes[k]? = some nd) (hleaf : nd.isLeaf = true) :
    inorder nodes (fuel + 1) k = [nd.sym] := by
  simp [inorder, hnd, hleaf]

theorem inorder_internal (hnd : nodes[k]? = some nd) (hinternal : nd.isLeaf = false) :
    inorder nodes (fuel + 1) k = inorder nodes fuel nd.left.toNat ++ inorder nodes fuel nd.right.toNat := by
  simp [inorder, hnd, hinternal]

theorem inorder_none (hnone : nodes[k]? = none) : inorder nodes fuel k = [] := by
  cases fuel <;> simp [inorder, hnone]

/-- The depth of a node is at most its number: any fuel above that gives the same list. -/
theorem inorder_fuel (hchildren : ChildrenOlder nodes) (hk : k < fuel) (hk' : k < fuel') :
    inorder nodes fuel k = inorder nodes fuel' k := by
  induction fuel generalizing fuel' k with
  | zero => omega
  | succ fuel ih =>
    obtain ⟨fuel', rfl⟩ : ∃ m, fuel' = m + 1 := ⟨fuel' - 1, by omega⟩
    cases hnd : nodes[k]? with
    | none => rw [inorder_none hnd, inorder_none hnd]
    | some nd =>
      cases hkind : nd.isLeaf with
      | true => rw [inorder_leaf hnd hkind, inorder_leaf hnd hkind]
      | false =>
        obtain ⟨hleft, hright⟩ := hchildren k nd hnd hkind
        have hl : inorder nodes fuel nd.left.toNat = inorder nodes fuel' nd.left.toNat := ih (by omega) (by omega)
        have hr : inorder nodes fuel nd.right.toNat = inorder nodes fuel' nd.right.toNat := ih (by omega) (by omega)
        rw [inorder_internal hnd hkind, inorder_internal hnd hkind, hl, hr]

/-- The equation of R244 at one fuel throughout. -/
theorem inorder_eq (hchildren : ChildrenOlder nodes) (hk : k < fuel) (hnd : nodes[k]? = some nd) :
    inorder nodes fuel k =
      if nd.isLeaf then [nd.sym] else inorder nodes fuel nd.left.toNat ++ inorder nodes fuel nd.right.toNat := by
  obtain ⟨fuel, rfl⟩ : ∃ m, fuel = m + 1 := ⟨fuel - 1, by omega⟩
  cases hkind : nd.isLeaf with
  | true => rw [inorder_leaf hnd hkind, if_pos rfl]
  | false =>
    obtain ⟨hleft, hright⟩ := hchildren k nd hnd hkind
    rw [inorder_internal hnd hkind, if_neg Bool.false_ne_true,
      inorder_fuel hchildren (k := nd.left.toNat) (fuel' := fuel + 1) (by omega) (by omega),
      inorder_fuel hchildren (k := nd.right.toNat) (fuel' := fuel + 1) (by omega) (by omega)]

/-- Settles O40: children have smaller node numbers than their parent, so the fuel never runs out. -/
theorem inorderVisitsLeftFirst : Obligations.InorderVisitsLeftFirst := by
  intro f alphabet hpos hn nodes k nd hnd
  have hk : k < nodes.length := (List.getElem?_eq_some_iff.mp hnd).1
  exact inorder_eq ((built_buildTree f hpos).childrenOlder hn) hk hnd

/-! ### The leaf report (R244, R246) -/

/-- Later nodes do not change the list of an old node. -/
theorem inorder_append (hchildren : ChildrenOlder nodes) (hk : k < nodes.length) :
    inorder (nodes ++ more) fuel k = inorder nodes fuel k := by
  induction fuel generalizing k with
  | zero => rfl
  | succ fuel ih =>
    have hnd : nodes[k]? = some nodes[k] := List.getElem?_eq_getElem hk
    have hnd' : (nodes ++ more)[k]? = some nodes[k] := (List.getElem?_append_left hk).trans hnd
    cases hkind : nodes[k].isLeaf with
    | true => rw [inorder_leaf hnd hkind, inorder_leaf hnd' hkind]
    | false =>
      obtain ⟨hleft, hright⟩ := hchildren k _ hnd hkind
      rw [inorder_internal hnd hkind, inorder_internal hnd' hkind, ih (hleft.trans hk), ih (hright.trans hk)]

/-- The lists of the live nodes hold, together, each entry of the Alphabet once. -/
theorem Built.inorder_perm (h : Built f alphabet nodes live) (hn : alphabet.length ≤ 128) :
    (live.flatMap (inorder nodes nodes.length)).Perm alphabet := by
  induction h with
  | leaves =>
    have hleaf : ∀ k ∈ List.range alphabet.length,
        inorder (alphabet.map (leafNode f)) (alphabet.map (leafNode f)).length k = [alphabet[k]?.getD 0] := by
      intro k hk
      have hk : k < alphabet.length := List.mem_range.mp hk
      rw [inorder_eq (Built.leaves.childrenOlder hn) (by simpa using hk) (Built.leaves.getElem?_leaf hk),
        List.getElem?_eq_getElem hk]
      rfl
    rw [List.flatMap_congr hleaf, ← List.map_eq_flatMap]
    exact .of_eq (List.ext_getElem (by simp) fun k _ hk => by simp [hk])
  | @merge nodes live x y built hx hy ih =>
    have hchildren := built.childrenOlder hn
    have hchildren' := (built.merge hx hy).childrenOlder hn
    have hymem : y ∈ live := List.mem_of_mem_erase hy.1
    have hkeep {z : Nat} (hz : z ∈ live) :
        inorder (nodes ++ [mergeNode nodes x y]) (nodes.length + 1) z = inorder nodes nodes.length z := by
      have hlt := built.lt_length hz
      rw [inorder_append hchildren hlt, inorder_fuel hchildren (by omega) hlt]
    have hnew : inorder (nodes ++ [mergeNode nodes x y]) (nodes.length + 1) nodes.length =
        inorder nodes nodes.length x ++ inorder nodes nodes.length y := by
      rw [inorder_eq hchildren' (by omega) List.getElem?_concat_length, if_neg (mergeNode_not_leaf nodes x y),
        mergeNode_left (built.number_lt hn hx.1), mergeNode_right (built.number_lt hn hymem), hkeep hx.1, hkeep hymem]
    have hrest : ((live.erase x).erase y).flatMap
          (inorder (nodes ++ [mergeNode nodes x y]) (nodes.length + 1)) =
        ((live.erase x).erase y).flatMap (inorder nodes nodes.length) :=
      List.flatMap_congr fun z hz => hkeep (List.mem_of_mem_erase (List.mem_of_mem_erase hz))
    have hlive : live.Perm (x :: y :: (live.erase x).erase y) :=
      (List.perm_cons_erase hx.1).trans ((List.perm_cons_erase hy.1).cons x)
    rw [List.length_append, List.length_singleton, List.flatMap_append, List.flatMap_singleton, hnew, hrest]
    calc ((live.erase x).erase y).flatMap (inorder nodes nodes.length) ++
          (inorder nodes nodes.length x ++ inorder nodes nodes.length y)
      List.Perm _ ((inorder nodes nodes.length x ++ inorder nodes nodes.length y) ++
          ((live.erase x).erase y).flatMap (inorder nodes nodes.length)) := List.perm_append_comm
      List.Perm _ ((x :: y :: (live.erase x).erase y).flatMap (inorder nodes nodes.length)) := by
        rw [List.flatMap_cons, List.flatMap_cons, List.append_assoc]
      List.Perm _ (live.flatMap (inorder nodes nodes.length)) := hlive.symm.flatMap_right _
      List.Perm _ alphabet := ih

theorem treeLeaves_perm (f : Vector Word 128) (hpos : 1 ≤ alphabet.length) (hn : alphabet.length ≤ 128) :
    (treeLeaves (buildTree f alphabet)).Perm alphabet := by
  have hperm := (built_buildTree f hpos).inorder_perm hn
  rwa [List.flatMap_singleton, ← treeRoot_buildTree f hpos] at hperm

/-! ### TREE (R245) -/

theorem exec_tree (s : State) : exec .tree s = runCommand bodyTree s := rfl

theorem exec_tree_without_scan (h : s.status.alphaValid = false ∨ s.status.freqValid = false) :
    exec .tree s = Spec.abort s 0x12#8 := by
  rw [exec_tree]
  refine runCommand_of_raise (e := .stateError) ?_
  obtain h | h := h <;> simp [bodyTree, h]

/-- The state after TREE when its check of LEAFCOUNT passes (R245). -/
def State.withTree (s : State) : State :=
  let t := buildTree s.freq s.alphabet
  { s with
    node := writeFrom s.node 0 t.1
    leaf := writeFrom s.leaf 0 (treeLeaves t)
    root := BitVec.ofNat 8 (treeRoot t)
    ncount := BitVec.ofNat 9 t.1.length
    leafcount := s.tlen
    status := { s.status with treeValid := true } }

theorem bodyTree_of_leafcount (halpha : s.status.alphaValid = true) (hfreq : s.status.freqValid = true)
    (hcount : BitVec.ofNat 8 (treeLeaves (buildTree s.freq s.alphabet)).length = s.tlen) :
    bodyTree s = .ok () s.withTree := by
  simp [bodyTree, State.withTree, halpha, hfreq, hcount]

theorem exec_tree_of_leafcount (halpha : s.status.alphaValid = true) (hfreq : s.status.freqValid = true)
    (hcount : BitVec.ofNat 8 (treeLeaves (buildTree s.freq s.alphabet)).length = s.tlen) :
    exec .tree s = Spec.success s.withTree := by
  rw [exec_tree]
  exact runCommand_of_ok (bodyTree_of_leafcount (s := prologue s) halpha hfreq hcount)

theorem State.alphabet_length (h : s.tlen.toNat ≤ 128) : s.alphabet.length = s.tlen.toNat := by
  simpa [State.alphabet] using h

/-- Settles O42: a build of n leaves has 2n − 1 nodes and n symbols in its leaf report, so the check of LEAFCOUNT
passes. -/
theorem treeStoresTheTree : Obligations.TreeStoresTheTree := by
  refine ⟨fun w => decode_eq_ok_iff_of_format_n (i := .tree) rfl, fun s =>
    ⟨exec_tree_without_scan, fun hvalid halpha hfreq => ?_⟩⟩
  obtain ⟨hpos, hn⟩ := hvalid.alphaRange halpha
  have halphabet : s.alphabet.length = s.tlen.toNat := State.alphabet_length hn
  rw [← halphabet] at hpos hn ⊢
  have hnodes := buildTree_length s.freq hpos
  have hleaves := (treeLeaves_perm s.freq hpos hn).length_eq
  have hcount : BitVec.ofNat 8 (treeLeaves (buildTree s.freq s.alphabet)).length = s.tlen := by
    rw [hleaves, halphabet, BitVec.ofNat_toNat, BitVec.setWidth_eq]
  refine ⟨s.withTree.node, s.withTree.leaf, ?_, ?_, fun k hk => ?_, ?_, fun k hk => ?_⟩
  · rw [exec_tree_of_leafcount halpha hfreq hcount, State.withTree, treeRoot_buildTree s.freq hpos, hnodes]
  · rw [← hnodes]
    exact writeFrom_take _ _ (by omega)
  · exact writeFrom_outside _ _ _ (.inr (by omega))
  · rw [← hleaves]
    exact writeFrom_take _ _ (by omega)
  · exact writeFrom_outside _ _ _ (.inr (by omega))

end Sys2Proof.Machine
end

section
/-! SUPPORT. What ENCODE and DECODE share (R118 to R126): appends to OUT, the indices of a block packed and read back,
the configured width, and the file of a text. -/

namespace Sys2Proof.Machine

variable {s t u : State} {m : Memory} {bs cs text alphabet : List Byte} {prm : Params} {o : IdxOrder}
  {buf : Vector Byte 8} {indices : List Nat} {c : Byte} {a k n p q w : Nat}

/-! ### Lists of bytes in a memory -/

theorem Memory.readList_add (m : Memory) (a n r : Nat) :
    Memory.readList m a (n + r) = Memory.readList m a n ++ Memory.readList m (a + n) r := by
  simp [Memory.readList, List.range_add, Nat.add_assoc]

/-- A list of bytes in memory is cut where the bytes are. -/
theorem Memory.readList_eq_append (h : Memory.readList m a n = bs ++ cs) :
    Memory.readList m a bs.length = bs ∧ Memory.readList m (a + bs.length) cs.length = cs := by
  have hn : n = bs.length + cs.length := by simpa using congrArg List.length h
  rw [hn, Memory.readList_add] at h
  exact List.append_inj h (by simp)

/-! ### Appends to OUT (R13, R82) -/

/-- OUT and OUTLEN after one append for each byte of a list. -/
def sinkAfter (sink : Memory × Word) (bs : List Byte) : Memory × Word :=
  bs.foldl (fun sink b => (Memory.write sink.1 sink.2.toNat b, sink.2 + 1)) sink

theorem sinkAfter_append (sink : Memory × Word) (bs cs : List Byte) :
    sinkAfter sink (bs ++ cs) = sinkAfter (sinkAfter sink bs) cs :=
  List.foldl_append

/-- While OUTLEN does not wrap, the bytes stand one behind the other. -/
theorem sinkAfter_eq (m : Memory) (len : Word) (bs : List Byte) (hlen : len.toNat + bs.length < 2 ^ 32) :
    sinkAfter (m, len) bs = (Memory.writeList m len.toNat bs, len + BitVec.ofNat 32 bs.length) := by
  induction bs generalizing m len with
  | nil => simp [sinkAfter, Memory.writeList]
  | cons b bs ih =>
    rw [List.length_cons] at hlen
    have hnext : (len + 1).toNat = len.toNat + 1 := by
      rw [BitVec.toNat_add]
      exact Nat.mod_eq_of_lt (by simp; omega)
    change sinkAfter (Memory.write m len.toNat b, len + 1) bs = _
    rw [ih _ _ (by omega), hnext, Memory.writeList, List.length_cons, Nat.add_comm bs.length, BitVec.ofNat_add,
      ← BitVec.add_assoc]
    rfl

/-- What the loops of ENCODE and DECODE and the end of a command only read: the parameters, IN, the tables and the
registers but OUTLEN, EMITTED, STATUS and ERRCODE. The fields left out stand at fixed values. -/
def State.setup (s : State) : State :=
  { s with
    outMem := [], outlen := 0, emitted := 0, buf := Vector.replicate 8 0, ioOutcomes := [], status := .reset,
    errcode := 0 }

/-- From `s` to `t` the bytes were appended to OUT, and the setup was kept. -/
structure Writes (s : State) (bs : List Byte) (t : State) : Prop where
  setup : t.setup = s.setup
  sink : (t.outMem, t.outlen) = sinkAfter (s.outMem, s.outlen) bs

theorem Writes.nil (hsetup : t.setup = s.setup) (hmem : t.outMem = s.outMem) (hlen : t.outlen = s.outlen) :
    Writes s [] t :=
  ⟨hsetup, by rw [hmem, hlen]; rfl⟩

theorem Writes.refl (s : State) : Writes s [] s := .nil rfl rfl rfl

theorem Writes.trans (hst : Writes s bs t) (htu : Writes t cs u) : Writes s (bs ++ cs) u :=
  ⟨htu.setup.trans hst.setup, by rw [htu.sink, hst.sink, sinkAfter_append]⟩

theorem Writes.addEmitted (h : Writes s bs t) (n : Nat) : Writes s bs (t.addEmitted n) := ⟨h.setup, h.sink⟩

theorem Writes.setBuf (h : Writes s bs t) (buf : Vector Byte 8) : Writes s bs (t.setBuf buf) := ⟨h.setup, h.sink⟩

/-- What a state holds in its setup is kept. -/
theorem Writes.keeps {α : Type} (h : Writes s bs t) (f : State → α) (hf : ∀ s, f s.setup = f s) : f t = f s := by
  rw [← hf t, h.setup, hf s]

section
variable (h : Writes s bs t)
include h

theorem Writes.params : t.params = s.params := h.keeps State.params fun _ => rfl
theorem Writes.inMem : t.inMem = s.inMem := h.keeps State.inMem fun _ => rfl
theorem Writes.srclen : t.srclen = s.srclen := h.keeps State.srclen fun _ => rfl
theorem Writes.inlen : t.inlen = s.inlen := h.keeps State.inlen fun _ => rfl
theorem Writes.tlen : t.tlen = s.tlen := h.keeps State.tlen fun _ => rfl
theorem Writes.cw : t.cw = s.cw := h.keeps State.cw fun _ => rfl
theorem Writes.cpb : t.cpb = s.cpb := h.keeps State.cpb fun _ => rfl
theorem Writes.bpb : t.bpb = s.bpb := h.keeps State.bpb fun _ => rfl
theorem Writes.odl : t.odl = s.odl := h.keeps State.odl fun _ => rfl
theorem Writes.totout : t.totout = s.totout := h.keeps State.totout fun _ => rfl
theorem Writes.alphabet_eq : t.alphabet = s.alphabet := h.keeps State.alphabet fun _ => rfl

/-- Appended from OUTLEN 0 on, the bytes are the output. -/
theorem Writes.output (h0 : s.outlen = 0) (hwf : s.outMem.wf = true) (hlen : bs.length < 2 ^ 32) :
    t.outputBytes = bs ∧ t.outlen = BitVec.ofNat 32 bs.length := by
  have hsink := h.sink
  rw [h0, sinkAfter_eq s.outMem 0 bs (by simpa using hlen)] at hsink
  obtain ⟨hmem, houtlen⟩ := Prod.mk.injEq .. ▸ hsink
  have houtlen : t.outlen = BitVec.ofNat 32 bs.length := houtlen.trans (BitVec.zero_add _)
  refine ⟨?_, houtlen⟩
  rw [State.outputBytes, hmem, houtlen, BitVec.toNat_ofNat, Nat.mod_eq_of_lt hlen]
  exact Memory.readList_writeList hwf

end

/-! ### The indices of a block in BUF (R268, R276) -/

/-- BUF after a list of indices was placed, from block position `p` on (R165, R268). -/
def packIndices (o : IdxOrder) (w : Nat) : List Nat → Nat → Vector Byte 8 → Vector Byte 8
  | [], _, buf => buf
  | v :: vs, p, buf => packIndices o w vs (p + 1) (putIndex o v p w buf)

/-- An index read depends on the bits of its field alone. -/
theorem getIndex_congr {buf' : Vector Byte 8} (h : ∀ j, j < w → getBit buf (p * w + j) = getBit buf' (p * w + j)) :
    getIndex o p w buf = getIndex o p w buf' := by
  refine eq_of_testBit_fieldWeight (o := o) (getIndex_lt ..) (getIndex_lt ..) fun j hj => ?_
  rw [testBit_getIndex hj, testBit_getIndex hj, h j hj]

/-- An index put does not change the index at another position (R169). -/
theorem getIndex_putIndex_other (v : Nat) (hq : q * w + w ≤ 64) (hne : p ≠ q) :
    getIndex o p w (putIndex o v q w buf) = getIndex o p w buf := by
  refine getIndex_congr fun j hj => ?_
  rw [getBit_putIndex o v hq, if_neg]
  rintro ⟨hlow, hhigh⟩
  have hp : (p * w + j) / w = p := by
    rw [Nat.mul_comm, Nat.mul_add_div (by omega), Nat.div_eq_of_lt hj, Nat.add_zero]
  have hq : (p * w + j) / w = q := Nat.div_eq_of_lt_le hlow (by rwa [Nat.succ_mul])
  exact hne (hp.symm.trans hq)

theorem getIndex_packIndices_below (hpq : p < q) (hfit : (q + indices.length) * w ≤ 64) :
    getIndex o p w (packIndices o w indices q buf) = getIndex o p w buf := by
  induction indices generalizing q buf with
  | nil => rfl
  | cons v vs ih =>
    rw [List.length_cons] at hfit
    have hfield : (q + 1) * w ≤ 64 := le_trans (Nat.mul_le_mul_right w (by omega)) hfit
    rw [packIndices, ih (by omega) (by convert hfit using 2; omega),
      getIndex_putIndex_other v (by rwa [Nat.succ_mul] at hfield) hpq.ne]

/-- Each index placed is read back at its position (R169). -/
theorem getIndex_packIndices (hk : k < indices.length) (hfit : (p + indices.length) * w ≤ 64)
    (hlt : ∀ v ∈ indices, v < 2 ^ w) : getIndex o (p + k) w (packIndices o w indices p buf) = indices[k] := by
  induction indices generalizing p k buf with
  | nil => simp at hk
  | cons v vs ih =>
    rw [List.length_cons] at hfit hk
    have hfit' : (p + 1 + vs.length) * w ≤ 64 := by convert hfit using 2; omega
    have hfield : (p + 1) * w ≤ 64 := le_trans (Nat.mul_le_mul_right w (by omega)) hfit
    rw [packIndices]
    cases k with
    | zero =>
      rw [Nat.add_zero, getIndex_packIndices_below (by omega) hfit',
        getIndex_putIndex (by rwa [Nat.succ_mul] at hfield) (hlt v List.mem_cons_self)]
      rfl
    | succ k =>
      rw [show p + (k + 1) = p + 1 + k by omega, List.getElem_cons_succ]
      exact ih (by omega) hfit' fun x hx => hlt x (List.mem_cons_of_mem v hx)

/-- The bytes of a packed block: the first bytes of BUF, cleared, with the indices placed (R268). -/
def blockBytes (prm : Params) (w : Nat) (indices : List Nat) : List Byte :=
  (packIndices prm.idxOrder w indices 0 (Vector.replicate 8 0)).toList.take (geometry prm w).2

theorem blockBytes_length (hw : 1 ≤ w) (hw7 : w ≤ 7) : (blockBytes prm w indices).length = (geometry prm w).2 := by
  simpa [blockBytes] using geometry_bytes_le prm hw hw7

/-- Bytes loaded into BUF stand there, whatever follows is cleared (R276). -/
theorem clearFrom_writeFrom_getElem? (hk : k < bs.length) (hlen : bs.length ≤ 8) :
    (clearFrom (writeFrom buf 0 bs) bs.length)[k]? = bs[k]? := by
  rw [clearFrom, writeFrom_outside _ _ _ (.inl hk), writeFrom_getElem?, if_pos (by omega), Nat.sub_zero]

/-- A packed block loaded into BUF gives its indices back (R276). -/
theorem getIndex_loaded_block (hw : 1 ≤ w) (hw7 : w ≤ 7) (hcount : indices.length = (geometry prm w).1)
    (hlt : ∀ v ∈ indices, v < 2 ^ w) (hk : k < indices.length) :
    getIndex prm.idxOrder k w (clearFrom (writeFrom buf 0 (blockBytes prm w indices)) (geometry prm w).2) =
      indices[k] := by
  have hlen := blockBytes_length (prm := prm) (indices := indices) hw hw7
  have hb := geometry_bytes_le prm hw hw7
  have hfields := geometry_fields prm hw hw7
  have hfield := field_in_block (p := k) hw hw7 (hcount ▸ hk)
  calc _ = getIndex prm.idxOrder k w (packIndices prm.idxOrder w indices 0 (Vector.replicate 8 0)) := by
        refine getIndex_congr fun j hj => ?_
        have hbyte : (k * w + j) / 8 < (blockBytes prm w indices).length := by omega
        rw [getBit, getBit, ← hlen, clearFrom_writeFrom_getElem? hbyte (by omega), blockBytes,
          List.getElem?_take_of_lt (by omega), Vector.getElem?_toList]
    _ = indices[k] := by
        have := getIndex_packIndices (o := prm.idxOrder) (p := 0) (buf := Vector.replicate 8 0) hk
          (by rw [Nat.zero_add, hcount]; omega) hlt
        rwa [Nat.zero_add] at this

/-! ### The configured width (R191, R264, R275) -/

theorem selectWidth_bounds (n : Nat) : 1 ≤ selectWidth n ∧ selectWidth n ≤ 7 := by
  unfold selectWidth
  split_ifs <;> decide

/-- Configured for a code width, the registers hold it and its geometry. -/
theorem State.configure_toNat (s : State) (hw : 1 ≤ w) (hw7 : w ≤ 7) :
    (s.configure w).cw.toNat = w ∧ (s.configure w).cpb.toNat = (geometry s.params w).1 ∧
      (s.configure w).bpb.toNat = (geometry s.params w).2 := by
  have hchars := geometry_chars_le s.params w
  have hbytes := geometry_bytes_le s.params hw hw7
  exact ⟨Nat.mod_eq_of_lt (by omega), Nat.mod_eq_of_lt (by omega), Nat.mod_eq_of_lt (by omega)⟩

/-! ### The file of a text (R118, R122, R126) -/

/-- The first `n` chunks of a text as packed blocks, one behind the other. -/
def packedBlocks (prm : Params) (w : Nat) (alphabet : List Byte) : Nat → List Byte → List Byte
  | 0, _ => []
  | n + 1, text =>
    blockBytes prm w ((text.take (geometry prm w).1).map (Spec.indexOf alphabet)) ++
      packedBlocks prm w alphabet n (text.drop (geometry prm w).1)

theorem packedBlocks_length (hw : 1 ≤ w) (hw7 : w ≤ 7) :
    (packedBlocks prm w alphabet n text).length = n * (geometry prm w).2 := by
  induction n generalizing text with
  | zero => simp [packedBlocks]
  | succ n ih => rw [packedBlocks, List.length_append, blockBytes_length hw hw7, ih, Nat.succ_mul, Nat.add_comm]

/-- The file of a text at a code width `w`, with `odl` in the header's last field. -/
def packedFile (prm : Params) (alphabet : List Byte) (w : Nat) (odl : Word) (text : List Byte) : List Byte :=
  Spec.header prm.hdrEndian (BitVec.ofNat 32 text.length) (BitVec.ofNat 32 alphabet.length) (BitVec.ofNat 32 w) odl ++
    (alphabet ++ (packedBlocks prm w alphabet (text.length / (geometry prm w).1) text ++
      text.drop (text.length / (geometry prm w).1 * (geometry prm w).1)))

@[simp] theorem hdr32_length (e : HdrEndian) (v : Word) : (hdr32 e v).length = 4 := by
  cases e <;> rfl

@[simp] theorem Spec.header_length (e : HdrEndian) (len table width odl : Word) :
    (Spec.header e len table width odl).length = 16 := by
  simp [Spec.header]

/-- Header, Alphabet, blocks and tail (R281). -/
theorem packedFile_length (odl : Word) (hw : 1 ≤ w) (hw7 : w ≤ 7) :
    (packedFile prm alphabet w odl text).length =
      16 + alphabet.length + text.length / (geometry prm w).1 * (geometry prm w).2 +
        text.length % (geometry prm w).1 := by
  have htail := Nat.div_add_mod' text.length (geometry prm w).1
  simp only [packedFile, List.length_append, Spec.header_length, packedBlocks_length hw hw7, List.length_drop]
  omega

theorem geometry_bytes_le_chars (prm : Params) (hw : 1 ≤ w) (hw7 : w ≤ 7) :
    (geometry prm w).2 ≤ (geometry prm w).1 := by
  rcases hw7.lt_or_eq with hlt | rfl
  · interval_cases w <;> simp [geometry]
  · exact (w7Bytes_bounds prm.w7Bpb).2

/-- The packed data are no longer than the text (R281). -/
theorem packedFile_length_le (odl : Word) (hw : 1 ≤ w) (hw7 : w ≤ 7) :
    (packedFile prm alphabet w odl text).length ≤ 16 + alphabet.length + text.length := by
  have hblocks := Nat.mul_le_mul_left (text.length / (geometry prm w).1) (geometry_bytes_le_chars prm hw hw7)
  have htail := Nat.div_add_mod' text.length (geometry prm w).1
  rw [packedFile_length odl hw hw7]
  omega

theorem Spec.indexOf_getElem? (h : c ∈ alphabet) : alphabet[Spec.indexOf alphabet c]? = some c :=
  List.getElem?_idxOf h

theorem Spec.indexOf_lt (h : c ∈ alphabet) : Spec.indexOf alphabet c < alphabet.length :=
  List.idxOf_lt_length_of_mem h

/-- The smallest position that holds a character is its index (R214). -/
theorem eq_indexOf_of_lookupIndex (h : lookupIndex alphabet c = some k) : k = Spec.indexOf alphabet c := by
  rw [lookupIndex, List.findIdx?_eq_some_iff_findIdx_eq] at h
  exact h.2.symm

end Sys2Proof.Machine
end

section
/-! SUPPORT. ENCODE (R260 to R281): what a successful run wrote and checked, its output as the file of the source, and
the size of that file. -/

namespace Sys2Proof.Machine

variable {s t u : State} {bs text alphabet : List Byte} {prm : Params} {odl : Word} {b c : Byte} {n p pos w : Nat}

/-! ### What a successful ENCODE writes (R267 to R269) -/

theorem readIn_of_ok (h : readIn pos s = .ok b t) :
    b = Memory.read s.inMem pos ∧ t.buf = s.buf ∧ Writes s [] t := by
  rw [readIn_eq] at h
  split_ifs at h
  cases h
  exact ⟨rfl, rfl, .nil rfl rfl rfl⟩

theorem outByte_of_ok (h : outByte b s = .ok () t) : Writes s [b] t := by
  rw [outByte_eq] at h
  split_ifs at h
  cases h
  exact ⟨rfl, rfl⟩

theorem outAppend_of_ok (h : outAppend bs s = .ok () t) : Writes s bs t := by
  induction bs generalizing s with
  | nil =>
    cases h
    exact .refl _
  | cons b bs ih =>
    obtain ⟨_, s1, hbyte, hrest⟩ := Res.andThen_eq_ok.mp h
    exact (outByte_of_ok hbyte).trans (ih hrest)

@[simp] theorem State.setBuf_alphabet (s : State) (buf : Vector Byte 8) : (s.setBuf buf).alphabet = s.alphabet := rfl

/-- A raw tail appends the bytes of IN unchanged (R269). -/
theorem copyTail_of_ok (h : copyTail n pos s = .ok () t) : Writes s (Memory.readList s.inMem pos n) t := by
  induction n generalizing pos s with
  | zero =>
    cases h
    exact .refl _
  | succ n ih =>
    obtain ⟨ch, s1, hread, hcopy⟩ := Res.andThen_eq_ok.mp h
    obtain ⟨_, s2, hbyte, hrest⟩ := Res.andThen_eq_ok.mp hcopy
    obtain ⟨rfl, -, hw1⟩ := readIn_of_ok hread
    have hw2 : Writes s [_] _ := (hw1.trans (outByte_of_ok hbyte)).addEmitted 1
    have hw3 := ih hrest
    rw [hw2.inMem] at hw3
    rw [Memory.readList_cons]
    exact hw2.trans hw3

/-- The characters of a chunk put their indices into BUF (R268). -/
theorem encodeChars_of_ok (h : encodeChars n pos p s = .ok () t) :
    Writes s [] t ∧ t.buf = packIndices s.params.idxOrder s.cw.toNat
      ((Memory.readList s.inMem pos n).map (Spec.indexOf s.alphabet)) p s.buf := by
  induction n generalizing pos p s with
  | zero =>
    cases h
    exact ⟨.refl _, rfl⟩
  | succ n ih =>
    obtain ⟨ch, s1, hread, hplace⟩ := Res.andThen_eq_ok.mp h
    obtain ⟨rfl, hbuf, hw1⟩ := readIn_of_ok hread
    split at hplace
    · cases hplace
    · next k hk =>
      obtain ⟨hw2, hbuf2⟩ := ih hplace
      refine ⟨(hw1.setBuf _).trans hw2, ?_⟩
      simp only [State.setBuf_buf, State.setBuf_params, State.setBuf_cw, State.setBuf_inMem, State.setBuf_alphabet,
        hw1.params, hw1.cw, hw1.inMem, hw1.alphabet_eq, hbuf, eq_indexOf_of_lookupIndex hk] at hbuf2
      rw [hbuf2, Memory.readList_cons, List.map_cons, packIndices]

/-- `n` blocks append the packed chunks of the source from position `pos` on (R268). -/
theorem encodeBlocks_of_ok (hcpb : s.cpb.toNat = (geometry s.params s.cw.toNat).1)
    (hbpb : s.bpb.toNat = (geometry s.params s.cw.toNat).2) (h : encodeBlocks n pos s = .ok () t) (r : Nat) :
    Writes s (packedBlocks s.params s.cw.toNat s.alphabet n (Memory.readList s.inMem pos (n * s.cpb.toNat + r))) t := by
  induction n generalizing pos s with
  | zero =>
    cases h
    exact .refl _
  | succ n ih =>
    obtain ⟨_, s1, hchars, hrest⟩ := Res.andThen_eq_ok.mp h
    obtain ⟨_, s2, happend, hblocks⟩ := Res.andThen_eq_ok.mp hrest
    obtain ⟨hw1, hbuf⟩ := encodeChars_of_ok hchars
    have hw1 : Writes s [] s1 := ((Writes.refl s).setBuf _).trans hw1
    have hw2 : Writes s (s1.buf.toList.take s1.bpb.toNat) s2 := hw1.trans (outAppend_of_ok happend)
    have hw := hw2.addEmitted s2.cpb.toNat
    have hcut : (n + 1) * s.cpb.toNat + r = s.cpb.toNat + (n * s.cpb.toNat + r) := by rw [Nat.succ_mul]; omega
    have hlen : (Memory.readList s.inMem pos s.cpb.toNat).length = (geometry s.params s.cw.toNat).1 := by simp [hcpb]
    have hih := ih (by rwa [hw.cpb, hw.params, hw.cw]) (by rwa [hw.bpb, hw.params, hw.cw]) hblocks
    rw [hw.params, hw.cw, hw.alphabet_eq, hw.inMem, hw.cpb, hw2.cpb] at hih
    rw [hcut, Memory.readList_add, packedBlocks, List.take_left' hlen, List.drop_left' hlen]
    refine Writes.trans ?_ hih
    rw [hw1.bpb, hbuf, hbpb, hw2.cpb] at hw
    exact hw

/-- The output of ENCODE is the file of the source at the configured width (R267 to R269). -/
theorem encodeOutput_of_ok (hinlen : s.inlen = s.srclen) (htlen : s.tlen.toNat = s.alphabet.length)
    (hcpb : s.cpb.toNat = (geometry s.params s.cw.toNat).1) (hbpb : s.bpb.toNat = (geometry s.params s.cw.toNat).2)
    (h : encodeOutput s = .ok () t) :
    Writes s (packedFile s.params s.alphabet s.cw.toNat s.odl s.sourceBytes) t := by
  obtain ⟨_, s1, hheader, h⟩ := Res.andThen_eq_ok.mp h
  obtain ⟨_, s2, halphabet, h⟩ := Res.andThen_eq_ok.mp h
  obtain ⟨_, s3, hblocks, htail⟩ := Res.andThen_eq_ok.mp h
  have hw1 := outAppend_of_ok hheader
  have hw2 := outAppend_of_ok halphabet
  have hs2 := hw1.trans hw2
  have hw3 := encodeBlocks_of_ok (by rwa [hs2.cpb, hs2.params, hs2.cw]) (by rwa [hs2.bpb, hs2.params, hs2.cw])
    hblocks (s2.inlen.toNat % s2.cpb.toNat)
  have hs3 := hs2.trans hw3
  have hw4 := copyTail_of_ok htail
  rw [Nat.div_add_mod'] at hw3
  rw [hw1.alphabet_eq] at hw2
  rw [hs2.params, hs2.cw, hs2.alphabet_eq, hs2.inMem, hs2.inlen, hs2.cpb, hinlen] at hw3
  rw [hs3.inMem, hs3.inlen, hs3.cpb, hinlen] at hw4
  have hdrop : Memory.readList s.inMem (s.srclen.toNat / s.cpb.toNat * s.cpb.toNat) (s.srclen.toNat % s.cpb.toNat) =
      s.sourceBytes.drop (s.srclen.toNat / s.cpb.toNat * s.cpb.toNat) := by
    rw [State.sourceBytes]
    conv_rhs => rw [← Nat.div_add_mod' s.srclen.toNat s.cpb.toNat, Memory.readList_add, Nat.zero_add]
    rw [List.drop_left']
    simp [Nat.div_add_mod']
  have hfields : headerBytes s = Spec.header s.params.hdrEndian (BitVec.ofNat 32 s.sourceBytes.length)
      (BitVec.ofNat 32 s.alphabet.length) (BitVec.ofNat 32 s.cw.toNat) s.odl := by
    rw [s.sourceBytes_length, ← htlen, ← hinlen, BitVec.ofNat_toNat, BitVec.ofNat_toNat, BitVec.ofNat_toNat,
      BitVec.setWidth_eq]
    rfl
  rw [packedFile, ← hfields, s.sourceBytes_length, ← hcpb, ← hdrop]
  exact hw1.trans (hw2.trans (hw3.trans hw4))

/-! ### The checks of ENCODE (R260 to R266) -/

/-- What a successful ENCODE of the source of `s` leaves in the Alphabet and in the registers of `t` that its output
only reads (R57, R261 to R266). -/
structure Checked (s t : State) : Prop where
  ascii : isAscii s.sourceBytes = true
  srclen_le : s.srclen.toNat ≤ 2147483647
  alphabet : t.alphabet = dedupList (Spec.scanCounts s.sourceBytes)
  nonempty : 1 ≤ t.tlen.toNat
  tlen : t.tlen.toNat = t.alphabet.length
  inlen : t.inlen = s.srclen
  cw : t.cw.toNat = selectWidth t.tlen.toNat
  cpb : t.cpb.toNat = (geometry s.params t.cw.toNat).1
  bpb : t.bpb.toNat = (geometry s.params t.cw.toNat).2
  odl : t.odl = odlOf s.params t.cw.toNat t.bpb.toNat t.inlen.toNat
  totout : t.totout = BitVec.ofNat 32 (totoutOf s.params t.tlen.toNat t.odl.toNat)

/-- `t` has the parameters, the source, OUT and OUTLEN of `s`. -/
structure SamePorts (s t : State) : Prop where
  params : t.params = s.params
  inMem : t.inMem = s.inMem
  srclen : t.srclen = s.srclen
  outMem : t.outMem = s.outMem
  outlen : t.outlen = s.outlen

theorem SamePorts.trans (hst : SamePorts s t) (htu : SamePorts t u) : SamePorts s u :=
  ⟨htu.params.trans hst.params, htu.inMem.trans hst.inMem, htu.srclen.trans hst.srclen, htu.outMem.trans hst.outMem,
    htu.outlen.trans hst.outlen⟩

theorem SamePorts.sourceBytes (h : SamePorts s t) : t.sourceBytes = s.sourceBytes := by
  rw [State.sourceBytes, h.inMem, h.srclen, State.sourceBytes]

theorem bodyScan_of_ok (h : bodyScan s = .ok () t) :
    isAscii s.sourceBytes = true ∧ s.srclen.toNat ≤ 2147483647 ∧ t.freq = Spec.scanCounts s.sourceBytes ∧
      t.inlen = s.srclen ∧ SamePorts s t := by
  unfold bodyScan at h
  split_ifs at h with hlen
  obtain ⟨_, s1, hloop, hend⟩ := Res.andThen_eq_ok.mp h
  obtain ⟨hascii, rfl⟩ := scanLoop_of_ok hloop
  cases hend
  exact ⟨hascii, Nat.le_of_not_lt hlen, countInto_zero _, rfl, ⟨rfl, rfl, rfl, rfl, rfl⟩⟩

theorem bodyDedup_of_ok (h : bodyDedup s = .ok () t) :
    t.alphabet = dedupList s.freq ∧ 1 ≤ t.tlen.toNat ∧ t.tlen.toNat = (dedupList s.freq).length ∧
      t.inlen = s.inlen ∧ SamePorts s t := by
  simp only [bodyDedup] at h
  split_ifs at h with _ hnil
  cases h
  have hlen : (BitVec.ofNat 8 (dedupList s.freq).length).toNat = (dedupList s.freq).length :=
    Nat.mod_eq_of_lt ((dedupList_length_le s.freq).trans_lt (by decide))
  refine ⟨?_, (Nat.one_le_iff_ne_zero.mpr hnil).trans_eq hlen.symm, hlen, rfl, ⟨rfl, rfl, rfl, rfl, rfl⟩⟩
  rw [State.alphabet, hlen]
  exact writeFrom_take _ _ (dedupList_length_le _)

theorem bodyTree_of_ok (h : bodyTree s = .ok () t) :
    t.alphabet = s.alphabet ∧ t.tlen = s.tlen ∧ t.inlen = s.inlen ∧ SamePorts s t := by
  obtain ⟨_, _, _, _, _, _, hframe⟩ := bodyTree_frame s
  rw [h, Res.state_ok] at hframe
  subst hframe
  exact ⟨rfl, rfl, rfl, ⟨rfl, rfl, rfl, rfl, rfl⟩⟩

theorem encodeGain_of_ok (h : encodeGain s = .ok () t) :
    t.cw.toNat = selectWidth s.tlen.toNat ∧ t.cpb.toNat = (geometry s.params t.cw.toNat).1 ∧
      t.bpb.toNat = (geometry s.params t.cw.toNat).2 ∧
      t.odl = odlOf s.params t.cw.toNat t.bpb.toNat s.inlen.toNat ∧
      t.totout = BitVec.ofNat 32 (totoutOf s.params s.tlen.toNat t.odl.toNat) ∧
      t.alphabet = s.alphabet ∧ t.tlen = s.tlen ∧ t.inlen = s.inlen ∧ SamePorts s t := by
  obtain ⟨hw, hw7⟩ := selectWidth_bounds s.tlen.toNat
  obtain ⟨hcw, hcpb, hbpb⟩ := s.configure_toNat hw hw7
  have hframe := encodeGain_frame s
  rw [h, Res.state_ok] at hframe
  subst hframe
  refine ⟨hcw, ?_, ?_, ?_, rfl, rfl, rfl, rfl, ⟨rfl, rfl, rfl, rfl, rfl⟩⟩
  · exact hcpb.trans (by rw [hcw])
  · exact hbpb.trans (by rw [hcw])
  · change odlOf _ _ _ _ = odlOf _ (s.configure _).cw.toNat _ _
    rw [hcw]

/-- A successful ENCODE passed its checks, then wrote the output from a fresh sink on (R260). -/
theorem encodeMain_of_ok (h : encodeMain s = .ok () t) :
    ∃ u, Checked s u ∧ SamePorts s.freshSink u ∧ encodeOutput u = .ok () t := by
  obtain ⟨_, s1, hscan, h⟩ := Res.andThen_eq_ok.mp h
  obtain ⟨_, s2, hdedup, h⟩ := Res.andThen_eq_ok.mp h
  obtain ⟨_, s3, htree, h⟩ := Res.andThen_eq_ok.mp h
  obtain ⟨_, u, hgain, houtput⟩ := Res.andThen_eq_ok.mp h
  obtain ⟨hascii, hsrclen, hfreq, hinlen1, hports1⟩ := bodyScan_of_ok hscan
  obtain ⟨halphabet2, hpos2, htlen2, hinlen2, hports2⟩ := bodyDedup_of_ok hdedup
  obtain ⟨halphabet3, htlen3, hinlen3, hports3⟩ := bodyTree_of_ok htree
  obtain ⟨hcw, hcpb, hbpb, hodl, htotout, halphabet, htlen, hinlen, hports⟩ := encodeGain_of_ok hgain
  have hports' : SamePorts s.freshSink s3 := (hports1.trans hports2).trans hports3
  have hparams : s3.params = s.params := hports'.params
  have halphabet' : u.alphabet = dedupList s1.freq := halphabet.trans (halphabet3.trans halphabet2)
  have htlen' : u.tlen = s2.tlen := htlen.trans htlen3
  rw [hparams] at hcpb hbpb hodl htotout
  refine ⟨u, ⟨hascii, hsrclen, ?_, ?_, ?_, ?_, ?_, hcpb, hbpb, ?_, ?_⟩, hports'.trans hports, houtput⟩
  · rw [halphabet', hfreq]
    rfl
  · rwa [htlen']
  · rw [htlen', htlen2, halphabet']
  · exact hinlen.trans (hinlen3.trans (hinlen2.trans hinlen1))
  · rw [hcw, htlen]
  · rw [hodl, hinlen]
  · rw [htotout, htlen]

/-- The output leaves what the checks settled. -/
theorem Checked.of_writes (h : Checked s u) (hw : Writes u bs t) : Checked s t where
  ascii := h.ascii
  srclen_le := h.srclen_le
  alphabet := by rw [hw.alphabet_eq, h.alphabet]
  nonempty := by rw [hw.tlen]; exact h.nonempty
  tlen := by rw [hw.tlen, hw.alphabet_eq, h.tlen]
  inlen := by rw [hw.inlen, h.inlen]
  cw := by rw [hw.cw, hw.tlen, h.cw]
  cpb := by rw [hw.cpb, hw.cw, h.cpb]
  bpb := by rw [hw.bpb, hw.cw, h.bpb]
  odl := by rw [hw.odl, hw.cw, hw.bpb, hw.inlen, h.odl]
  totout := by rw [hw.totout, hw.tlen, hw.odl, h.totout]

/-! ### ENCODE (R260, R270, R281) -/

theorem closeSink_of_ok {r : Res Unit} (h : closeSink r = .ok () t) : ∃ s, r = .ok () s ∧ Writes s [] t := by
  cases r with
  | raise e s => cases h
  | ok _ s =>
    refine ⟨s, rfl, ?_⟩
    cases hio : s.ioOutcomes.headD false <;> simp only [closeSink, takeIo_eq, hio] at h <;> cases h
    exact .nil rfl rfl rfl

theorem ok_of_spoilSink {r : Res Unit} (h : spoilSink r = .ok () t) : r = .ok () t := by
  cases r with
  | ok _ s => exact h
  | raise e s => cases e <;> cases h

theorem Checked.one_le_cw (h : Checked s t) : 1 ≤ t.cw.toNat := h.cw ▸ (selectWidth_bounds _).1

theorem Checked.cw_le (h : Checked s t) : t.cw.toNat ≤ 7 := h.cw ▸ (selectWidth_bounds _).2

theorem Checked.alphabet_le (h : Checked s t) : t.alphabet.length ≤ 128 := h.alphabet ▸ dedupList_length_le _

theorem Checked.packedFile_length_le (h : Checked s t) :
    (packedFile s.params t.alphabet t.cw.toNat t.odl s.sourceBytes).length ≤ 16 + 128 + s.srclen.toNat := by
  calc _ ≤ 16 + t.alphabet.length + s.sourceBytes.length := Machine.packedFile_length_le t.odl h.one_le_cw h.cw_le
    _ ≤ 16 + 128 + s.srclen.toNat := by
      rw [s.sourceBytes_length]
      exact Nat.add_le_add_right (Nat.add_le_add_left h.alphabet_le 16) _

theorem exec_encode (s : State) : exec .encode s = runCommand bodyEncode s := rfl

/-- A successful ENCODE passed its checks, and its output is the file of the source. -/
theorem exec_encode_of_success (hwf : s.outMem.wf = true) (h : exec .encode s = .next t) (h0 : t.errcode = 0) :
    Checked s t ∧ t.outputBytes = packedFile s.params t.alphabet t.cw.toNat t.odl s.sourceBytes ∧
      t.outlen.toNat = (packedFile s.params t.alphabet t.cw.toNat t.odl s.sourceBytes).length := by
  rw [exec_encode] at h
  obtain ⟨t', hbody, rfl⟩ := ok_of_runCommand_errcode h h0
  obtain ⟨_, t1, hclose, hmark⟩ := Res.andThen_eq_ok.mp (ok_of_spoilSink hbody)
  cases hmark
  obtain ⟨t2, hmain, hw2⟩ := closeSink_of_ok hclose
  obtain ⟨u, hu, hports, houtput⟩ := encodeMain_of_ok hmain
  have hsource : u.sourceBytes = s.sourceBytes := hports.sourceBytes
  have hparams : u.params = s.params := hports.params
  have hsrclen : u.srclen = s.srclen := hports.srclen
  have houtMem : u.outMem = s.outMem := hports.outMem
  have houtlen : u.outlen = 0 := hports.outlen
  have hw1 := encodeOutput_of_ok (hu.inlen.trans hsrclen.symm) hu.tlen (hparams ▸ hu.cpb) (hparams ▸ hu.bpb) houtput
  have hend : Writes t2 [] ((markOutput t1).finish 0) := ⟨hw2.setup, hw2.sink⟩
  have hw := hw1.trans hend
  rw [List.append_nil, hparams, hsource] at hw
  have hchecked : Checked s ((markOutput t1).finish 0) := { hu.of_writes hw with }
  have hlen := hchecked.packedFile_length_le
  have hle := hchecked.srclen_le
  rw [hw.alphabet_eq, hw.cw, hw.odl] at hlen ⊢
  have hlt : (packedFile s.params u.alphabet u.cw.toNat u.odl s.sourceBytes).length < 2 ^ 32 := by omega
  obtain ⟨hbytes, houtlen'⟩ := hw.output houtlen (houtMem ▸ hwf) hlt
  refine ⟨hchecked, hbytes, ?_⟩
  rw [houtlen']
  exact Nat.mod_eq_of_lt hlt

/-- Where a block's fields fill its bytes, the default outputDataLength is the length of the packed data (R265). -/
theorem odlFormula_eq (len : Nat) (hw : 1 ≤ w) (hw6 : w ≤ 6) :
    odlFormula w (geometry prm w).2 len =
      len / (geometry prm w).1 * (geometry prm w).2 + len % (geometry prm w).1 := by
  have hfill : 8 * (geometry prm w).2 = w * (geometry prm w).1 := by rw [← geometry_fills prm hw hw6, Nat.mul_comm]
  rw [odlFormula, hfill, Nat.mul_div_mul_left _ _ hw, Nat.mul_mod_mul_left, Nat.mul_div_cancel_left _ hw]

/-- With the default functions, at the widths 1 to 6, TOTOUT counts the file but for its header (R266, R281). -/
theorem Checked.totout_toNat (h : Checked s t) (hw6 : t.cw.toNat ≤ 6) (hodl : s.params.odlFn = .remainderFormula)
    (htotout : s.params.totoutFn = .tlenPlusOdl) :
    16 + t.totout.toNat = (packedFile s.params t.alphabet t.cw.toNat t.odl s.sourceBytes).length := by
  have hw := h.one_le_cw
  have hle := h.packedFile_length_le
  have hsrclen := h.srclen_le
  rw [packedFile_length t.odl hw h.cw_le, s.sourceBytes_length] at hle ⊢
  have hodl' : t.odl.toNat = s.srclen.toNat / (geometry s.params t.cw.toNat).1 * (geometry s.params t.cw.toNat).2 +
      s.srclen.toNat % (geometry s.params t.cw.toNat).1 := by
    rw [h.odl, odlOf, hodl, h.inlen, h.bpb]
    exact (Nat.mod_eq_of_lt (by rw [odlFormula_eq _ hw hw6]; omega)).trans (odlFormula_eq _ hw hw6)
  have htotout' : t.totout.toNat = t.tlen.toNat + t.odl.toNat := by
    have htotal : totoutOf s.params t.tlen.toNat t.odl.toNat = t.tlen.toNat + t.odl.toNat := by
      rw [totoutOf, htotout]
    rw [h.totout, htotal]
    exact Nat.mod_eq_of_lt (by rw [hodl', h.tlen]; omega)
  rw [htotout', hodl', h.tlen]
  omega

/-- The Alphabet holds the characters of the source and no other (R281). -/
theorem Checked.mem_alphabet (h : Checked s t) : c ∈ t.alphabet ↔ c ∈ s.sourceBytes := by
  have hlen : s.sourceBytes.length < 2 ^ 32 := s.sourceBytes_length ▸ s.srclen.isLt
  rw [h.alphabet]
  refine ⟨fun hc => ?_, mem_dedupList_scanCounts h.ascii hlen⟩
  obtain ⟨hlt, hcount⟩ := mem_dedupList.mp hc
  refine List.count_pos_iff.mp (Nat.pos_of_ne_zero fun hzero => hcount (BitVec.eq_of_toNat_eq ?_))
  rw [scanCounts_toNat hlen hlt, hzero]
  rfl

/-- The alphabet field stands behind the header (R118). -/
theorem packedFile_alphabet :
    ((packedFile prm alphabet w odl text).drop 16).take alphabet.length = alphabet := by
  rw [packedFile, List.drop_left' (Spec.header_length ..), List.take_left]

/-- Settles O48: the output is the file of the source, whose parts have known lengths and whose alphabet field is the
Alphabet. -/
theorem encodeOutputSize : Obligations.EncodeOutputSize := by
  intro s t hwf h h0
  obtain ⟨hchecked, houtput, houtlen⟩ := exec_encode_of_success hwf h h0
  refine ⟨?_, fun hw6 hodl htotout => ?_, houtlen ▸ hchecked.packedFile_length_le, fun c => ?_⟩
  · rw [houtlen, packedFile_length t.odl hchecked.one_le_cw hchecked.cw_le, s.sourceBytes_length, hchecked.tlen,
      hchecked.inlen, hchecked.cpb, hchecked.bpb]
  · rw [houtlen, hchecked.totout_toNat hw6 hodl htotout]
  · rw [houtput, hchecked.tlen, packedFile_alphabet, hchecked.mem_alphabet]

end Sys2Proof.Machine
end

section
/-! SUPPORT. DECODE of the file of a text (R272 to R280): the loops when the host fails no I/O event, the header, and
the round trip. -/

namespace Sys2Proof.Machine

variable {s t u : State} {acc alphabet bs chunk cs text : List Byte} {prm : Params} {odl : Word}
  {buf : Vector Byte 8} {k len n p pos w : Nat}

/-! ### I/O events that succeed (R90) -/

/-- The state after the host's next `n` choices were used up. -/
def State.skipIo (s : State) (n : Nat) : State := { s with ioOutcomes := s.ioOutcomes.drop n }

theorem State.skipIo_skipIo (s : State) (j k : Nat) : (s.skipIo j).skipIo k = s.skipIo (j + k) := by
  simp [State.skipIo]

theorem State.noIoFailure_skipIo (h : s.noIoFailure = true) (n : Nat) : (s.skipIo n).noIoFailure = true := by
  rw [State.noIoFailure, List.all_eq_true] at *
  exact fun f hf => h f (List.mem_of_mem_drop hf)

theorem State.headD_ioOutcomes (h : s.noIoFailure = true) : s.ioOutcomes.headD false = false := by
  cases hio : s.ioOutcomes with
  | nil => rfl
  | cons f rest =>
    rw [State.noIoFailure, hio, List.all_cons, Bool.and_eq_true] at h
    simpa using h.1

theorem readIn_of_noIoFailure (h : s.noIoFailure = true) (pos : Nat) :
    readIn pos s = .ok (Memory.read s.inMem pos) (s.skipIo 1) := by
  rw [readIn_eq, State.headD_ioOutcomes h, if_neg Bool.false_ne_true, State.skipIo, List.drop_one]

theorem readBytes_of_noIoFailure (h : s.noIoFailure = true) :
    readBytes n pos acc s = .ok (acc ++ Memory.readList s.inMem pos n) (s.skipIo n) := by
  induction n generalizing pos acc s with
  | zero => simp [readBytes, Memory.readList, State.skipIo]
  | succ n ih =>
    rw [readBytes, readIn_of_noIoFailure h, Res.andThen_ok, ih (State.noIoFailure_skipIo h 1), State.skipIo_skipIo,
      Nat.add_comm 1, Memory.readList_cons, List.append_assoc]
    rfl

theorem readAlphabet_of_noIoFailure (h : s.noIoFailure = true) :
    readAlphabet n pos k s =
      .ok () (State.skipIo { s with alpha := writeFrom s.alpha k (Memory.readList s.inMem pos n) } n) := by
  induction n generalizing pos k s with
  | zero => simp [readAlphabet, Memory.readList, State.skipIo, writeFrom]
  | succ n ih =>
    rw [readAlphabet, readIn_of_noIoFailure h, Res.andThen_ok]
    refine (ih ?_).trans ?_
    · exact State.noIoFailure_skipIo h 1
    · rw [Memory.readList_cons, writeFrom, Nat.add_comm n, ← State.skipIo_skipIo]
      rfl

/-! ### What DECODE writes (R276, R277) -/

/-- From `s` to `t` DECODE appended the bytes to OUT and counted them in EMITTED; no choice of the host that is left is
a failure. -/
structure Decodes (s : State) (bs : List Byte) (t : State) : Prop where
  writes : Writes s bs t
  emitted : t.emitted = s.emitted + BitVec.ofNat 32 bs.length
  io : t.noIoFailure = true

theorem Decodes.refl (h : s.noIoFailure = true) : Decodes s [] s := ⟨.refl s, by simp, h⟩

theorem Decodes.trans (hst : Decodes s bs t) (htu : Decodes t cs u) : Decodes s (bs ++ cs) u :=
  ⟨hst.writes.trans htu.writes, by
    rw [htu.emitted, hst.emitted, List.length_append, BitVec.ofNat_add, BitVec.add_assoc], htu.io⟩

theorem Decodes.skipIo (h : Decodes s bs t) (n : Nat) : Decodes s bs (t.skipIo n) :=
  ⟨⟨h.writes.setup, h.writes.sink⟩, h.emitted, State.noIoFailure_skipIo h.io n⟩

theorem Decodes.setBuf (h : Decodes s bs t) (buf : Vector Byte 8) : Decodes s bs (t.setBuf buf) :=
  ⟨h.writes.setBuf buf, h.emitted, h.io⟩

/-- The bytes of a block go into BUF, from entry `j` on (R276). -/
theorem readBlock_decodes (h : s.noIoFailure = true) (n pos j : Nat) :
    ∃ t, readBlock n pos j s = .ok () t ∧ Decodes s [] t ∧
      t.buf = writeFrom s.buf j (Memory.readList s.inMem pos n) := by
  induction n generalizing pos j s with
  | zero => exact ⟨s, rfl, .refl h, rfl⟩
  | succ n ih =>
    have hd : Decodes s [] _ := ((Decodes.refl h).skipIo 1).setBuf (s.buf.setIfInBounds j (Memory.read s.inMem pos))
    obtain ⟨t, hread, hd', hbuf⟩ := ih hd.io (pos + 1) (j + 1)
    refine ⟨t, ?_, hd.trans hd', ?_⟩
    · rw [readBlock, readIn_of_noIoFailure h, Res.andThen_ok]
      exact hread
    · rw [hbuf, hd.writes.inMem, State.setBuf_buf, Memory.readList_cons, writeFrom]

theorem outByte_decodes (h : s.noIoFailure = true) (b : Byte) :
    ∃ t, outByte b s = .ok () t ∧ Decodes s [b] (t.addEmitted 1) ∧ t.buf = s.buf := by
  rw [outByte_eq, State.headD_ioOutcomes h, if_neg Bool.false_ne_true]
  refine ⟨_, rfl, ⟨⟨rfl, rfl⟩, rfl, ?_⟩, rfl⟩
  rw [← List.drop_one]
  exact State.noIoFailure_skipIo h 1

/-- The positions of a block whose indices are those of the characters (R276). -/
theorem decodePositions_of_chars (hio : s.noIoFailure = true)
    (hchars : ∀ k, (hk : k < text.length) →
      s.alphabet[getIndex s.params.idxOrder (p + k) s.cw.toNat s.buf]? = some text[k]) :
    ∃ t, decodePositions text.length p s = .ok () t ∧ Decodes s text t := by
  induction text generalizing p s with
  | nil => exact ⟨s, rfl, .refl hio⟩
  | cons c text ih =>
    have hc := hchars 0 (by simp)
    rw [Nat.add_zero, State.alphabet_getElem?] at hc
    split_ifs at hc with hlt
    obtain ⟨t1, hout, hd, hbuf⟩ := outByte_decodes hio c
    have hrest : ∀ k, (hk : k < text.length) →
        (t1.addEmitted 1).alphabet[getIndex (t1.addEmitted 1).params.idxOrder (p + 1 + k) (t1.addEmitted 1).cw.toNat
          (t1.addEmitted 1).buf]? = some text[k] := by
      intro k hk
      have hnext := hchars (k + 1) (by simpa using hk)
      rw [hd.writes.alphabet_eq, hd.writes.params, hd.writes.cw, State.addEmitted_buf, hbuf, Nat.add_right_comm]
      exact hnext
    obtain ⟨t, hpositions, hd'⟩ := ih hd.io hrest
    refine ⟨t, ?_, hd.trans hd'⟩
    simp only [List.length_cons, decodePositions]
    rw [if_neg (Nat.not_le.mpr hlt), hc]
    simpa [hout] using hpositions

/-- What the loops of DECODE read: the parameters, the configured width with its geometry, and the Alphabet. -/
structure Configured (prm : Params) (w : Nat) (alphabet : List Byte) (s : State) : Prop where
  params : s.params = prm
  cw : s.cw.toNat = w
  cpb : s.cpb.toNat = (geometry prm w).1
  bpb : s.bpb.toNat = (geometry prm w).2
  tlen : s.tlen.toNat = alphabet.length
  alphabet_eq : s.alphabet = alphabet

theorem Configured.of_writes (h : Configured prm w alphabet s) (hw : Writes s bs t) : Configured prm w alphabet t where
  params := by rw [hw.params, h.params]
  cw := by rw [hw.cw, h.cw]
  cpb := by rw [hw.cpb, h.cpb]
  bpb := by rw [hw.bpb, h.bpb]
  tlen := by rw [hw.tlen, h.tlen]
  alphabet_eq := by rw [hw.alphabet_eq, h.alphabet_eq]

/-- The positions of the packed block of a chunk, loaded into BUF (R276). -/
theorem decodePositions_of_block (hs : Configured prm w alphabet s) (hw : 1 ≤ w) (hw7 : w ≤ 7)
    (hfit : alphabet.length ≤ 2 ^ w) (hio : s.noIoFailure = true) (hmem : ∀ c ∈ chunk, c ∈ alphabet)
    (hlen : chunk.length = (geometry prm w).1)
    (hbuf : s.buf = clearFrom (writeFrom buf 0 (blockBytes prm w (chunk.map (Spec.indexOf alphabet))))
      (geometry prm w).2) :
    ∃ t, decodePositions (geometry prm w).1 0 s = .ok () t ∧ Decodes s chunk t := by
  rw [← hlen]
  refine decodePositions_of_chars hio fun k hk => ?_
  have hlt : ∀ i ∈ chunk.map (Spec.indexOf alphabet), i < 2 ^ w := by
    intro i hi
    obtain ⟨c, hc, rfl⟩ := List.mem_map.mp hi
    exact (Spec.indexOf_lt (hmem c hc)).trans_le hfit
  rw [hs.params, hs.cw, hs.alphabet_eq, hbuf, Nat.zero_add,
    getIndex_loaded_block hw hw7 (by simpa using hlen) hlt (by simpa using hk), List.getElem_map]
  exact Spec.indexOf_getElem? (hmem _ (List.getElem_mem hk))

/-- The packed blocks of a text give its characters back (R276). -/
theorem decodeBlocks_of_packed (hs : Configured prm w alphabet s) (hw : 1 ≤ w) (hw7 : w ≤ 7)
    (hfit : alphabet.length ≤ 2 ^ w) (hio : s.noIoFailure = true) (hmem : ∀ c ∈ text, c ∈ alphabet)
    (hlen : n * (geometry prm w).1 ≤ text.length)
    (hfile : Memory.readList s.inMem pos (n * (geometry prm w).2) = packedBlocks prm w alphabet n text)
    (hsrclen : pos + n * (geometry prm w).2 ≤ s.srclen.toNat) :
    ∃ t, decodeBlocks n pos s = .ok () t ∧ Decodes s (text.take (n * (geometry prm w).1)) t := by
  induction n generalizing pos s text with
  | zero => exact ⟨s, rfl, by simpa using Decodes.refl hio⟩
  | succ n ih =>
    rw [Nat.succ_mul] at hlen hsrclen
    obtain ⟨hblock, hrest⟩ := Memory.readList_eq_append hfile
    rw [blockBytes_length hw hw7] at hblock hrest
    rw [packedBlocks_length hw hw7] at hrest
    have hchunk : (text.take (geometry prm w).1).length = (geometry prm w).1 := by rw [List.length_take]; omega
    obtain ⟨s1, hread, hd1, hbuf⟩ := readBlock_decodes hio (geometry prm w).2 pos 0
    have hs1 := hs.of_writes hd1.writes
    have hd2 := hd1.setBuf (clearFrom s1.buf (geometry prm w).2)
    obtain ⟨s2, hpositions, hd3⟩ := decodePositions_of_block (hs.of_writes hd2.writes) hw hw7 hfit hd2.io
      (fun c hc => hmem c (List.mem_of_mem_take hc)) hchunk (by rw [State.setBuf_buf, hbuf, hblock])
    have hd := hd2.trans hd3
    have hs2 := hs.of_writes hd.writes
    obtain ⟨t, hblocks, hd4⟩ := ih (text := text.drop (geometry prm w).1) hs2 hd.io
      (fun c hc => hmem c (List.mem_of_mem_drop hc)) (by rw [List.length_drop]; omega)
      (by rw [hd.writes.inMem]; exact hrest) (by rw [hd.writes.srclen]; omega)
    refine ⟨t, ?_, ?_⟩
    · rw [decodeBlocks, hs.bpb, if_neg (by omega), hread, Res.andThen_ok, hs1.cpb, hs1.bpb, hpositions,
        Res.andThen_ok, hs2.bpb, hblocks]
    · rw [Nat.succ_mul, Nat.add_comm, List.take_add]
      exact hd.trans hd4

/-- A raw tail is copied (R277). -/
theorem decodeTail_of_noIoFailure (hio : s.noIoFailure = true) (hsrclen : pos + n ≤ s.srclen.toNat) :
    ∃ t, decodeTail n pos s = .ok () t ∧ Decodes s (Memory.readList s.inMem pos n) t := by
  induction n generalizing pos s with
  | zero => exact ⟨s, rfl, .refl hio⟩
  | succ n ih =>
    have hio1 := State.noIoFailure_skipIo hio 1
    obtain ⟨t1, hout, hd1, -⟩ := outByte_decodes hio1 (Memory.read s.inMem pos)
    have hd : Decodes s [Memory.read s.inMem pos] (t1.addEmitted 1) := ((Decodes.refl hio).skipIo 1).trans hd1
    obtain ⟨t, htail, hd'⟩ := ih (pos := pos + 1) hd.io (by rw [hd.writes.srclen]; omega)
    rw [hd.writes.inMem] at hd'
    refine ⟨t, ?_, Memory.readList_cons .. ▸ hd.trans hd'⟩
    rw [decodeTail, if_neg (by omega), readIn_of_noIoFailure hio, Res.andThen_ok, hout, Res.andThen_ok]
    exact htail

/-- A text that a file can hold: the header's integers are in their ranges, every character is in the Alphabet, and
every index fits its field (R119 to R123). -/
structure Packable (alphabet : List Byte) (w : Nat) (text : List Byte) : Prop where
  length_lt : text.length < 2 ^ 31
  nonempty : 1 ≤ alphabet.length
  alphabet_le : alphabet.length ≤ 128
  one_le : 1 ≤ w
  le_seven : w ≤ 7
  indices_lt : alphabet.length ≤ 2 ^ w
  mem : ∀ c ∈ text, c ∈ alphabet

/-- The packed blocks and the raw tail of a file give the text back (R275 to R277). -/
theorem decodeData_of_file (hs : Configured prm w alphabet s) (htext : Packable alphabet w text)
    (hio : s.noIoFailure = true) (hinlen : s.inlen.toNat = text.length)
    (hfile : s.sourceBytes = packedFile prm alphabet w odl text) : ∃ t, decodeData s = .ok () t ∧ Decodes s text t := by
  obtain ⟨-, -, -, hw, hw7, hfit, hmem⟩ := htext
  have hsrclen : s.srclen.toNat = (packedFile prm alphabet w odl text).length := by rw [← hfile, s.sourceBytes_length]
  rw [packedFile_length odl hw hw7] at hsrclen
  obtain ⟨-, hafter⟩ := Memory.readList_eq_append hfile
  obtain ⟨-, hafter⟩ := Memory.readList_eq_append hafter
  obtain ⟨hblocks, htail⟩ := Memory.readList_eq_append hafter
  rw [Spec.header_length, packedBlocks_length hw hw7, Nat.zero_add] at hblocks htail
  rw [List.length_drop, ← Nat.mod_eq_sub_div_mul] at htail
  have hcount := Nat.div_mul_le_self text.length (geometry prm w).1
  obtain ⟨s1, hdecode, hd1⟩ := decodeBlocks_of_packed hs hw hw7 hfit hio hmem hcount hblocks (by omega)
  have hs1 := hs.of_writes hd1.writes
  obtain ⟨t, hcopy, hd2⟩ := decodeTail_of_noIoFailure (n := text.length % (geometry prm w).1)
    (pos := 16 + alphabet.length + text.length / (geometry prm w).1 * (geometry prm w).2) hd1.io
    (by rw [hd1.writes.srclen]; omega)
  rw [hd1.writes.inMem, htail] at hd2
  refine ⟨t, ?_, List.take_append_drop _ text ▸ hd1.trans hd2⟩
  rw [decodeData, hinlen, hs.cpb, hs.tlen, hdecode, Res.andThen_ok, hd1.writes.inlen, hinlen, hs1.cpb, hs1.bpb,
    hs1.tlen, hcopy]

/-! ### The header (R118, R273 to R275) -/

theorem ofLe32_le32 (v : Word) : ofLe32 (le32 v) = v := by
  change v.extractLsb' 24 8 ++ v.extractLsb' 16 8 ++ v.extractLsb' 8 8 ++ v.extractLsb' 0 8 = v
  rw [BitVec.extractLsb'_append_extractLsb'_eq_extractLsb' (show 24 = 16 + 8 from rfl),
    BitVec.extractLsb'_append_extractLsb'_eq_extractLsb' (show 16 = 8 + 8 from rfl),
    BitVec.extractLsb'_append_extractLsb'_eq_extractLsb' (show 8 = 0 + 8 from rfl)]
  exact BitVec.extractLsb'_eq_self

/-- A header integer is read back (R11). -/
theorem hdrWord_hdr32_append (e : HdrEndian) (v : Word) (bs : List Byte) : hdrWord e (hdr32 e v ++ bs) = v := by
  have htake : (hdr32 e v ++ bs).take 4 = hdr32 e v := List.take_left' (hdr32_length e v)
  cases e with
  | le => exact (congrArg ofLe32 htake).trans (ofLe32_le32 v)
  | be =>
    rw [hdrWord, htake, hdr32, List.reverse_reverse]
    exact ofLe32_le32 v

theorem hdrWord_header (e : HdrEndian) (len table width odl : Word) :
    hdrWord e (Spec.header e len table width odl) = len ∧
      hdrWord e ((Spec.header e len table width odl).drop 4) = table ∧
      hdrWord e ((Spec.header e len table width odl).drop 8) = width := by
  have hdrop (v : Word) (k : Nat) (bs : List Byte) : (hdr32 e v ++ bs).drop (4 + k) = bs.drop k := by
    rw [← List.drop_drop, List.drop_left' (hdr32_length e v)]
  simp only [Spec.header, List.append_assoc]
  refine ⟨hdrWord_hdr32_append .., ?_, ?_⟩
  · rw [hdrop _ 0]
    exact hdrWord_hdr32_append ..
  · rw [hdrop _ 4, hdrop _ 0]
    exact hdrWord_hdr32_append ..

theorem toInt_ofNat_of_lt (h : n < 2 ^ 31) : (BitVec.ofNat 32 n).toInt = n := by
  have hn : (BitVec.ofNat 32 n).toNat = n := Nat.mod_eq_of_lt (h.trans (by decide))
  rw [BitVec.toInt_eq_toNat_of_lt (by omega), hn]

theorem headerAccepted_of_ranges (hlen : len < 2 ^ 31) (hpos : 1 ≤ n) (hn : n ≤ 128) (hw : 1 ≤ w) (hw7 : w ≤ 7) :
    headerAccepted (BitVec.ofNat 32 len) (BitVec.ofNat 32 n) (BitVec.ofNat 32 w) = true := by
  rw [headerAccepted, toInt_ofNat_of_lt hlen, toInt_ofNat_of_lt (by omega : n < 2 ^ 31),
    toInt_ofNat_of_lt (by omega : w < 2 ^ 31)]
  simp only [Bool.and_eq_true, decide_eq_true_eq]
  omega

/-- A header in its ranges, with its alphabet field behind it, configures the core (R273 to R275). -/
theorem decodeHeader_of_packable (htext : Packable alphabet w text) (hio : s.noIoFailure = true)
    (hsrclen : 16 + alphabet.length ≤ s.srclen.toNat)
    (hfield : Memory.readList s.inMem 16 alphabet.length = alphabet) :
    ∃ t, decodeHeader (Spec.header s.params.hdrEndian (BitVec.ofNat 32 text.length)
        (BitVec.ofNat 32 alphabet.length) (BitVec.ofNat 32 w) odl) s = .ok () t ∧
      Configured s.params w alphabet t ∧ t.inlen = BitVec.ofNat 32 text.length ∧ SamePorts s t ∧
      t.emitted = s.emitted ∧ t.noIoFailure = true := by
  obtain ⟨hlen, hpos, hn, hw, hw7, -, -⟩ := htext
  obtain ⟨hlenField, htableField, hwidthField⟩ := hdrWord_header s.params.hdrEndian (BitVec.ofNat 32 text.length)
    (BitVec.ofNat 32 alphabet.length) (BitVec.ofNat 32 w) odl
  have htable : (BitVec.ofNat 32 alphabet.length).toNat = alphabet.length := Nat.mod_eq_of_lt (by omega)
  have hwidth : (BitVec.ofNat 32 w).toNat = w := Nat.mod_eq_of_lt (by omega)
  simp only [decodeHeader, hlenField, htableField, hwidthField, headerAccepted_of_ranges hlen hpos hn hw hw7, htable,
    hwidth, Bool.not_true, Bool.false_eq_true, if_false, Nat.not_lt.mpr hsrclen, readAlphabet_of_noIoFailure hio,
    hfield, Res.andThen_ok]
  obtain ⟨hcw, hcpb, hbpb⟩ := State.configure_toNat _ hw hw7
  have htlen : ((BitVec.ofNat 32 alphabet.length).setWidth 8).toNat = alphabet.length := by
    rw [BitVec.toNat_setWidth, htable]
    exact Nat.mod_eq_of_lt (by omega)
  refine ⟨_, rfl, ⟨rfl, hcw, hcpb, hbpb, htlen, ?_⟩, rfl, ⟨rfl, rfl, rfl, rfl, rfl⟩, rfl,
    State.noIoFailure_skipIo hio _⟩
  change (writeFrom s.alpha 0 alphabet).toList.take ((BitVec.ofNat 32 alphabet.length).setWidth 8).toNat = alphabet
  rw [htlen]
  exact writeFrom_take _ _ hn

/-! ### DECODE of a file (R272, R278, R280) -/

/-- DECODE reads the header bytes and goes on from a fresh sink (R272, R273). -/
theorem decodeMain_of_noIoFailure (hio : s.noIoFailure = true) (h16 : 16 ≤ s.srclen.toNat) :
    ∃ s1, SamePorts s.freshSink s1 ∧ s1.emitted = 0 ∧ s1.noIoFailure = true ∧
      decodeMain s = (decodeHeader (Memory.readList s.inMem 0 16) s1).andThen fun _ s2 => decodeData s2 := by
  have hread := readBytes_of_noIoFailure (s := s.freshSink.setStatus s.freshSink.status.decodeStart) (n := 16)
    (pos := 0) (acc := []) hio
  refine ⟨(s.freshSink.setStatus s.freshSink.status.decodeStart).skipIo 16, ⟨rfl, rfl, rfl, rfl, rfl⟩,
    rfl, State.noIoFailure_skipIo (s := s) hio 16, ?_⟩
  rw [decodeMain, if_neg (show ¬ s.freshSink.srclen.toNat < 16 from Nat.not_lt.mpr h16)]
  exact congrArg (fun r => r.andThen fun h s1 => (decodeHeader h s1).andThen fun _ s2 => decodeData s2) hread

/-- Steps 1 to 4 of DECODE on the file of a text: from a fresh sink on they append the text. -/
theorem decodeMain_of_file (htext : Packable alphabet w text) (hio : s.noIoFailure = true)
    (hfile : s.sourceBytes = packedFile s.params alphabet w odl text) :
    ∃ u t, SamePorts s.freshSink u ∧ u.emitted = 0 ∧ u.inlen = BitVec.ofNat 32 text.length ∧
      decodeMain s = .ok () t ∧ Decodes u text t := by
  have hlen := htext.length_lt
  have hsrclen : 16 + alphabet.length ≤ s.srclen.toNat := by
    rw [← s.sourceBytes_length, hfile, packedFile_length odl htext.one_le htext.le_seven]
    omega
  obtain ⟨hheader, hafter⟩ := Memory.readList_eq_append hfile
  obtain ⟨hfield, -⟩ := Memory.readList_eq_append hafter
  rw [Spec.header_length] at hheader hfield
  obtain ⟨s1, hports1, hemitted1, hio1, hmain⟩ := decodeMain_of_noIoFailure hio (by omega)
  have hparams1 : s1.params = s.params := hports1.params
  obtain ⟨u, htake, hu, hinlen, hports, hemitted, hio2⟩ := decodeHeader_of_packable (odl := odl) htext hio1
    (hports1.srclen ▸ hsrclen) (hports1.inMem ▸ hfield)
  rw [hparams1] at htake hu
  have hports := hports1.trans hports
  obtain ⟨t, hdata, hd⟩ := decodeData_of_file hu htext hio2 (by rw [hinlen]; exact Nat.mod_eq_of_lt (by omega))
    (hports.sourceBytes.trans hfile)
  refine ⟨u, t, hports, hemitted.trans hemitted1, hinlen, ?_, hd⟩
  rw [hmain, hheader, htake, Res.andThen_ok, hdata]

theorem closeSink_of_noIoFailure (hio : s.noIoFailure = true) : closeSink (.ok () s) = .ok () (s.skipIo 1) := by
  simp only [closeSink, takeIo_eq, State.headD_ioOutcomes hio]
  rw [State.skipIo, List.drop_one]

theorem exec_decode (s : State) : exec .decode s = runCommand bodyDecode s := rfl

/-- DECODE of the file of a text succeeds, and its output is the text (R272, R278). -/
theorem exec_decode_of_file (htext : Packable alphabet w text) (hwf : s.outMem.wf = true)
    (hio : s.noIoFailure = true) (hfile : s.sourceBytes = packedFile s.params alphabet w odl text) :
    ∃ v, exec .decode s = .next v ∧ v.errcode = 0 ∧ v.status.outValid = true ∧ v.outputBytes = text ∧
      v.emitted = BitVec.ofNat 32 text.length ∧ v.inlen = BitVec.ofNat 32 text.length := by
  have hlen := htext.length_lt
  obtain ⟨u, t, hports, hemitted, hinlen, hmain, hd⟩ := decodeMain_of_file (s := prologue s) htext hio hfile
  have houtMem : u.outMem = s.outMem := hports.outMem
  have houtlen : u.outlen = 0 := hports.outlen
  have hd1 := hd.skipIo 1
  have hcount : (t.skipIo 1).emitted = BitVec.ofNat 32 text.length := by
    rw [hd1.emitted, hemitted]
    exact BitVec.zero_add _
  have hinlen' : (t.skipIo 1).inlen = BitVec.ofNat 32 text.length := hd1.writes.inlen.trans hinlen
  have hbody : bodyDecode (prologue s) = .ok () (markOutput (t.skipIo 1)) := by
    rw [bodyDecode, hmain, closeSink_of_noIoFailure hd.io, Res.andThen_ok,
      if_neg (not_not.mpr (hcount.trans hinlen'.symm)), spoilSink_ok]
  have hexec : exec .decode s = .next ((markOutput (t.skipIo 1)).finish 0) := by
    rw [exec_decode, runCommand_eq, hbody, epilogue_ok]
  refine ⟨_, hexec, rfl, rfl, ?_, hcount, hinlen'⟩
  exact (hd1.writes.output houtlen (houtMem ▸ hwf) (by omega)).1

/-- The source of a successful ENCODE can be held by a file at its Alphabet and width. -/
theorem Checked.packable (h : Checked s t) : Packable t.alphabet t.cw.toNat s.sourceBytes where
  length_lt := by
    rw [s.sourceBytes_length]
    exact h.srclen_le.trans_lt (by decide)
  nonempty := h.tlen ▸ h.nonempty
  alphabet_le := h.alphabet_le
  one_le := h.one_le_cw
  le_seven := h.cw_le
  indices_lt := by
    rw [h.cw, h.tlen]
    exact le_two_pow_selectWidth h.alphabet_le
  mem _ := h.mem_alphabet.mpr

/-- Settles O52: the output of a successful ENCODE is the file of its source, and DECODE of that file gives the source
back. -/
theorem roundTrip : Obligations.RoundTrip := by
  intro s t u hwf h h0 hparams _ hsource huwf huio
  obtain ⟨hchecked, houtput, -⟩ := exec_encode_of_success hwf h h0
  have hfile : u.sourceBytes = packedFile u.params t.alphabet t.cw.toNat t.odl s.sourceBytes :=
    hparams ▸ hsource.trans houtput
  obtain ⟨v, hdecode, hcode, hvalid, hbytes, hemitted, hinlen⟩ :=
    exec_decode_of_file hchecked.packable huwf huio hfile
  have hsrclen : BitVec.ofNat 32 s.sourceBytes.length = s.srclen := by
    rw [s.sourceBytes_length, BitVec.ofNat_toNat, BitVec.setWidth_eq]
  exact ⟨v, hdecode, hcode, hvalid, hbytes, hemitted.trans hsrclen, hinlen.trans hsrclen⟩

end Sys2Proof.Machine
end

section
/-! SUPPORT. The error conditions (R300 to R317): the abort of a command that finds a valid bit missing or an operand
out of range, and what ENCODE and DECODE leave when they abort before the first byte of output. -/

namespace Sys2Proof.Machine

variable {s t : State} {file text : List Byte} {e : ErrKind} {i n pos : Nat}

/-! ### StateError and BadOperand (R303, R304) -/

/-- Settles O20: each of the five commands tests its valid bits before it writes anything. -/
theorem stateErrorChangesNothing : Obligations.StateErrorChangesNothing := fun _ =>
  ⟨fun hcfg _ _ => exec_putidx_unconfigured hcfg, fun hcfg _ => exec_getidx_unconfigured hcfg, exec_dedup_unscanned,
    fun halpha _ => exec_lookup_without_alphabet halpha, exec_tree_without_scan⟩

/-- Settles O21: each command with an operand range tests it before it writes anything. -/
theorem badOperandChangesNothing : Obligations.BadOperandChangesNothing := fun _ _ _ =>
  ⟨exec_getbit_of_bad_offset, exec_setbit_of_bad_operand, exec_putidx_of_bad_operand, exec_getidx_of_bad_position,
    exec_width_of_bad_length, exec_geom_of_bad_width, exec_setcw_of_bad_width⟩

/-! ### An error exit of ENCODE and DECODE (R270, R278, R305) -/

/-- An error but IoFailure reaches the epilogue through the close, which uses up one event and keeps all else. -/
theorem sink_of_raise (he : e ≠ .ioFailure) (f : Unit → State → Res Unit) :
    spoilSink ((closeSink (.raise e t)).andThen f) = .raise e (t.skipIo 1) := by
  rw [closeSink_raise, Res.andThen_raise, spoilSink_raise_other e _ he, State.skipIo, List.drop_one]

theorem exec_encode_of_raise (he : e ≠ .ioFailure) (h : encodeMain (prologue s) = .raise e t) :
    exec .encode s = .next ((t.skipIo 1).finish e.code) := by
  rw [exec_encode, runCommand_eq, bodyEncode, h, sink_of_raise he, epilogue_raise]

theorem exec_decode_of_raise (he : e ≠ .ioFailure) (h : decodeMain (prologue s) = .raise e t) :
    exec .decode s = .next ((t.skipIo 1).finish e.code) := by
  rw [exec_decode, runCommand_eq, bodyDecode, h, sink_of_raise he, epilogue_raise]

/-! ### CorruptHeader (R273, R314) -/

/-- The state in which DECODE tests the header: a fresh sink, and no valid bit set (R272). -/
def State.decodeStart (s : State) : State := s.freshSink.setStatus s.freshSink.status.decodeStart

/-- A source of fewer than 16 bytes holds no header. -/
theorem decodeMain_of_short_source (h : s.srclen.toNat < 16) :
    decodeMain s = .raise .corruptHeader s.decodeStart :=
  if_pos h

/-- The header is the first 16 bytes of the source, read one event each. -/
theorem decodeMain_of_header (hio : s.noIoFailure = true) (h : 16 ≤ s.srclen.toNat) :
    decodeMain s =
      (decodeHeader (s.sourceBytes.take 16) (s.decodeStart.skipIo 16)).andThen fun _ s2 => decodeData s2 := by
  have hheader : Memory.readList s.inMem 0 16 = s.sourceBytes.take 16 := by
    rw [State.sourceBytes, ← Nat.add_sub_cancel' h, Memory.readList_add, List.take_left' (Memory.readList_length ..)]
  have hread := readBytes_of_noIoFailure (s := s.decodeStart) (n := 16) (pos := 0) (acc := []) hio
  rw [← hheader, decodeMain, if_neg (show ¬ s.freshSink.srclen.toNat < 16 from Nat.not_lt.mpr h)]
  exact congrArg (fun r => r.andThen fun h s1 => (decodeHeader h s1).andThen fun _ s2 => decodeData s2) hread

/-- DECODE reads a header integer where the format puts it (R11, R118). -/
theorem hdrWord_eq_headerField (endian : HdrEndian) (hpos : pos + 4 ≤ n) (hn : n ≤ file.length) :
    hdrWord endian ((file.take n).drop pos) = Spec.headerField endian file pos := by
  have hbytes : ((file.take n).drop pos).take 4 =
      [file[pos]?.getD 0, file[pos + 1]?.getD 0, file[pos + 2]?.getD 0, file[pos + 3]?.getD 0] := by
    refine List.ext_getElem ?_ fun k _ hk => ?_
    · simp only [List.length_take, List.length_drop, List.length_cons, List.length_nil]
      omega
    · have hk : k < 4 := hk
      have hbyte : file[pos + k]?.getD 0 = file[pos + k] := by rw [List.getElem?_eq_getElem, Option.getD_some]
      rw [List.getElem_take, List.getElem_drop, List.getElem_take, ← hbyte]
      interval_cases k <;> rfl
  cases endian <;> rw [hdrWord, hbytes] <;> rfl

/-- A header that the format does not allow is refused by the test of its fields, or its alphabet is cut off. -/
theorem decodeHeader_of_not_headerOk (h16 : 16 ≤ file.length) (hsrclen : s.srclen.toNat = file.length)
    (h : Spec.headerOk s.params file = false) : decodeHeader (file.take 16) s = .raise .corruptHeader s := by
  have hlen := hdrWord_eq_headerField s.params.hdrEndian (pos := 0) (by decide) h16
  have htable := hdrWord_eq_headerField s.params.hdrEndian (pos := 4) (by decide) h16
  have hwidth := hdrWord_eq_headerField s.params.hdrEndian (pos := 8) (by decide) h16
  rw [List.drop_zero] at hlen
  simp only [decodeHeader, hlen, htable, hwidth]
  split_ifs with hfields hcut
  · rfl
  · rfl
  · simp only [headerAccepted, Bool.not_eq_true', Bool.not_eq_false, Bool.and_eq_true, decide_eq_true_eq] at hfields
    obtain ⟨⟨⟨⟨hlen0, htable1⟩, htable128⟩, hwidth1⟩, hwidth7⟩ := hfields
    have hcast := BitVec.toInt_eq_toNat_cond (Spec.headerField s.params.hdrEndian file 4)
    simp only [Spec.headerOk, decide_eq_false_iff_not] at h
    split_ifs at hcast <;> omega

/-- A bad header aborts in the state in which DECODE tests it, but for the events used up. -/
theorem decodeMain_of_not_headerOk (hio : s.noIoFailure = true) (h : Spec.headerOk s.params s.sourceBytes = false) :
    ∃ n, decodeMain s = .raise .corruptHeader (s.decodeStart.skipIo n) := by
  by_cases h16 : 16 ≤ s.srclen.toNat
  · have hheader : decodeHeader (s.sourceBytes.take 16) (s.decodeStart.skipIo 16) = .raise .corruptHeader _ :=
      decodeHeader_of_not_headerOk (s.sourceBytes_length ▸ h16) s.sourceBytes_length.symm h
    exact ⟨16, by rw [decodeMain_of_header hio h16, hheader, Res.andThen_raise]⟩
  · exact ⟨0, decodeMain_of_short_source (Nat.lt_of_not_le h16)⟩

/-- Settles O51: before the header is accepted DECODE has written the fresh sink and cleared the valid bits, no more. -/
theorem corruptHeaderWritesNothing : Obligations.CorruptHeaderWritesNothing := by
  intro s hio hbad
  obtain ⟨n, hmain⟩ := decodeMain_of_not_headerOk (s := prologue s) hio hbad
  exact ⟨_, exec_decode_of_raise (by decide) hmain,
    rfl, rfl, rfl, rfl, rfl, rfl, rfl, rfl, rfl, rfl, rfl, rfl, rfl, rfl⟩

/-! ### SCAN, DEDUP and TREE inside ENCODE, when the host fails no I/O event (R261, R263) -/

/-- The counting loop goes over an ASCII text to its end. -/
theorem scanLoop_of_ascii (hio : s.noIoFailure = true) (hascii : isAscii (Memory.readList s.inMem i n) = true) :
    scanLoop n i s = .ok () (State.skipIo { s with freq := countInto s.freq (Memory.readList s.inMem i n) } n) := by
  induction n generalizing i s with
  | zero => rfl
  | succ n ih =>
    rw [Memory.readList_cons, isAscii_iff, List.forall_mem_cons, ← isAscii_iff] at hascii
    obtain ⟨hbyte, hrest⟩ := hascii
    have hnext := ih (s := { s.skipIo 1 with freq := bumpFreq s.freq (Memory.read s.inMem i).toNat })
      (State.noIoFailure_skipIo hio 1) hrest
    rw [scanLoop, readIn_of_noIoFailure hio, Res.andThen_ok, if_neg (by omega), Memory.readList_cons, Nat.add_comm n,
      ← State.skipIo_skipIo]
    exact hnext

/-- The state after SCAN of an ASCII source (R211). -/
def State.withScan (s : State) : State :=
  { s.skipIo s.srclen.toNat with
    freq := Spec.scanCounts s.sourceBytes
    inlen := s.srclen
    status := { s.status.scanStart with freqValid := true } }

theorem bodyScan_of_ascii (hio : s.noIoFailure = true) (hlen : s.srclen.toNat ≤ 2147483647)
    (hascii : isAscii s.sourceBytes = true) : bodyScan s = .ok () s.withScan := by
  have hloop := scanLoop_of_ascii (s := { s with status := s.status.scanStart, freq := Vector.replicate 128 0 })
    hio hascii
  rw [bodyScan, if_neg (Nat.not_lt.mpr hlen), hloop, Res.andThen_ok, State.withScan, ← countInto_zero]
  rfl

/-- The state after DEDUP of a FREQ that has a count (R213). -/
def State.withDedup (s : State) : State :=
  { s with
    alpha := writeFrom s.alpha 0 (dedupList s.freq)
    tlen := BitVec.ofNat 8 (dedupList s.freq).length
    status := { s.status.dedupStart with alphaValid := true } }

theorem bodyDedup_of_ne_nil (hfreq : s.status.freqValid = true) (hne : dedupList s.freq ≠ []) :
    bodyDedup s = .ok () s.withDedup := by
  simp [bodyDedup, hfreq, hne, State.withDedup]

/-- TREE of a valid Alphabet passes its check of LEAFCOUNT (R246). -/
theorem bodyTree_of_alphabet (halpha : s.status.alphaValid = true) (hfreq : s.status.freqValid = true)
    (hpos : 1 ≤ s.tlen.toNat) (hn : s.tlen.toNat ≤ 128) : bodyTree s = .ok () s.withTree := by
  have hlength : s.alphabet.length = s.tlen.toNat := State.alphabet_length hn
  rw [← hlength] at hpos hn
  refine bodyTree_of_leafcount halpha hfreq ?_
  rw [(treeLeaves_perm s.freq hpos hn).length_eq, hlength, BitVec.ofNat_toNat, BitVec.setWidth_eq]

/-! ### The gain check (R264 to R266) -/

/-- The Alphabet of a text is what DEDUP makes of its counts (R212). -/
theorem dedupList_scanCounts (hlen : text.length < 2 ^ 32) :
    dedupList (Spec.scanCounts text) = Spec.alphabetOf text := by
  rw [dedupList, Spec.alphabetOf, List.filter_map]
  refine congrArg (List.map _) (List.filter_congr fun k hk => ?_)
  have hk : k < 128 := List.mem_range.mp hk
  have hcode : (BitVec.ofNat 8 k).toNat = k := Nat.mod_eq_of_lt (by omega)
  have hcount := scanCounts_toNat (c := BitVec.ofNat 8 k) hlen (hcode.trans_lt hk)
  rw [hcode] at hcount
  rw [Bool.eq_iff_iff, bne_iff_ne, Function.comp_apply, List.contains_iff_mem, ← List.count_pos_iff, ← hcount,
    Nat.pos_iff_ne_zero]
  exact not_congr (BitVec.toNat_inj (y := 0#32)).symm

/-- The state in which ENCODE tests the gain: the configured width and the two figures. -/
def State.withGain (s : State) : State :=
  let w := selectWidth s.tlen.toNat
  let odl := odlOf s.params w (s.configure w).bpb.toNat s.inlen.toNat
  { s.configure w with odl := odl, totout := BitVec.ofNat 32 (totoutOf s.params s.tlen.toNat odl.toNat) }

theorem encodeGain_of_no_gain (h : s.inlen.toNat ≤ totoutOf s.params s.tlen.toNat s.withGain.odl.toNat) :
    encodeGain s = .raise .noGainAbort s.withGain :=
  if_pos h

/-- For the length and the Alphabet of a text the registers hold its width, its geometry and its figures. -/
theorem State.withGain_figures (htlen : s.tlen.toNat = (Spec.alphabetOf text).length)
    (hinlen : s.inlen.toNat = text.length) :
    s.withGain.cw.toNat = Spec.widthOf text ∧
      s.withGain.cpb.toNat = (geometry s.params (Spec.widthOf text)).1 ∧
      s.withGain.bpb.toNat = (geometry s.params (Spec.widthOf text)).2 ∧
      s.withGain.odl = Spec.odlOfText s.params text ∧
      s.withGain.totout = BitVec.ofNat 32 (Spec.totoutOfText s.params text) := by
  have hwidth : selectWidth s.tlen.toNat = Spec.widthOf text := congrArg selectWidth htlen
  obtain ⟨hw, hw7⟩ := selectWidth_bounds (Spec.alphabetOf text).length
  obtain ⟨hcw, hcpb, hbpb⟩ := s.configure_toNat (w := Spec.widthOf text) hw hw7
  have hodl : s.withGain.odl = Spec.odlOfText s.params text := by
    simp only [State.withGain, hwidth, hbpb, hinlen, Spec.odlOfText]
  simp only [State.withGain, hwidth] at hodl ⊢
  exact ⟨hcw, hcpb, hbpb, hodl, by rw [hodl, htlen]; rfl⟩

/-! ### NoGainAbort (R266, R309) -/

/-- The state in which ENCODE tests the gain of an ASCII source, but for the writes of the test (R260 to R263). -/
def State.beforeGain (s : State) : State := s.freshSink.withScan.withDedup.withTree

/-- TLEN counts the characters of the source's Alphabet. -/
theorem State.beforeGain_tlen (s : State) : s.beforeGain.tlen.toNat = (Spec.alphabetOf s.sourceBytes).length := by
  have hlen : s.sourceBytes.length < 2 ^ 32 := s.sourceBytes_length ▸ s.srclen.isLt
  rw [← dedupList_scanCounts hlen]
  exact Nat.mod_eq_of_lt ((dedupList_length_le _).trans_lt (by decide))

/-- An ASCII source that is not empty passes SCAN, DEDUP and TREE and comes to the gain check. -/
theorem encodeMain_of_ascii (hio : s.noIoFailure = true) (hpos : 1 ≤ s.srclen.toNat)
    (hlen : s.srclen.toNat ≤ 2147483647) (hascii : isAscii s.sourceBytes = true) :
    encodeMain s = (encodeGain s.beforeGain).andThen fun _ s4 => encodeOutput s4 := by
  have hbytes : s.sourceBytes.length < 2 ^ 32 := s.sourceBytes_length ▸ s.srclen.isLt
  obtain ⟨c, hc⟩ := List.exists_mem_of_length_pos (s.sourceBytes_length ▸ hpos)
  have hmem : c ∈ dedupList (Spec.scanCounts s.sourceBytes) := mem_dedupList_scanCounts hascii hbytes hc
  have htlen : s.beforeGain.tlen.toNat = (dedupList (Spec.scanCounts s.sourceBytes)).length := by
    rw [s.beforeGain_tlen, dedupList_scanCounts hbytes]
  have hscan : bodyScan s.freshSink = .ok () s.freshSink.withScan := bodyScan_of_ascii hio hlen hascii
  have hdedup : bodyDedup s.freshSink.withScan = .ok () s.freshSink.withScan.withDedup :=
    bodyDedup_of_ne_nil rfl (List.ne_nil_of_mem hmem)
  have htree : bodyTree s.freshSink.withScan.withDedup = .ok () s.beforeGain :=
    bodyTree_of_alphabet rfl rfl (htlen ▸ List.length_pos_of_mem hmem) (htlen ▸ dedupList_length_le _)
  rw [encodeMain, hscan, Res.andThen_ok, hdedup, Res.andThen_ok, htree, Res.andThen_ok]

/-- Settles O46: the gain check comes before the first append, and the figures it tests stay in the registers. -/
theorem noGainWritesNothing : Obligations.NoGainWritesNothing := by
  intro s hio hpos hlen hascii hgain
  have htlen := (prologue s).beforeGain_tlen
  obtain ⟨hcw, hcpb, hbpb, hodl, htotout⟩ :=
    State.withGain_figures htlen (prologue s).sourceBytes_length.symm
  have hraise : encodeGain (prologue s).beforeGain = .raise .noGainAbort (prologue s).beforeGain.withGain := by
    refine encodeGain_of_no_gain ?_
    rw [hodl, htlen]
    exact hgain
  have hmain : encodeMain (prologue s) = .raise .noGainAbort (prologue s).beforeGain.withGain := by
    rw [encodeMain_of_ascii (s := prologue s) hio hpos hlen hascii, hraise, Res.andThen_raise]
  exact ⟨_, exec_encode_of_raise (by decide) hmain,
    rfl, rfl, rfl, rfl, rfl, rfl, rfl, rfl, htlen, rfl, hcw, hcpb, hbpb, hodl, htotout⟩

end Sys2Proof.Machine
end

section
/-! SUPPORT. The word of a command both ways (R111 to R114), and the operands the assembler takes (R117). -/

namespace Sys2Proof

/-! ### Encoding and decoding (R111 to R114) -/

/-- The encoder and the formats of R112 put the same four bytes together. -/
theorem encode_eq_wordAB (i : Instr) : encode i = Machine.Spec.wordAB i.mnemonic.opc i.opA i.opB :=
  (wordAB_eq_append _ _ _).symm

/-- A word decodes to a command exactly when it is the word the encoder gives the command. -/
theorem decode_eq_ok_iff_encode {w : Word} {i : Instr} : decode w = .ok i ↔ w = encode i := by
  rw [decode_eq_ok_iff_wordAB, encode_eq_wordAB]

/-- Settles O2: the encoder's word is the one word that decodes to the command. -/
theorem decodeOfEncode : Obligations.DecodeOfEncode := fun _ => decode_eq_ok_iff_encode.mpr rfl

/-- Settles O3: a word that decodes to a command is the encoder's word. -/
theorem encodeOfDecode : Obligations.EncodeOfDecode := fun _ _ h => (decode_eq_ok_iff_encode.mp h).symm

/-- Settles O1: each of the words is written out, so the decoder runs on it. -/
theorem specWordsDecode : Obligations.SpecWordsDecode := by
  refine ⟨?_, ?_, ?_, ?_, ?_, ?_, ?_, ?_, ?_, ?_, ?_⟩ <;> decide

end Sys2Proof

namespace Sys2Proof.Machine

/-! ### The assembler's operands (R117) -/

/-- `commandOf` takes the operands exactly when it gets past its two checks, and then answers the mnemonic's command. -/
theorem commandOf_eq_ok_iff {m : Mnemonic} {ops : List Nat} {i : Instr} :
    commandOf m ops = .ok i ↔ (ops.length = operandCount m.format ∧ ∀ n ∈ ops, n ≤ 255) ∧
      m.instr (BitVec.ofNat 8 (ops[0]?.getD 0)) (BitVec.ofNat 8 (ops[1]?.getD 0)) = i := by
  unfold commandOf
  split_ifs with hcount hlarge
  · simp [hcount]
  · obtain ⟨n, hn, hbig⟩ : ∃ n ∈ ops, 255 < n := by simpa using hlarge
    exact ⟨fun h => (nomatch h), fun h => absurd (h.1.2 n hn) (by omega)⟩
  · have hsmall : ∀ n ∈ ops, n ≤ 255 := by simpa using hlarge
    exact ⟨fun h => ⟨⟨by omega, hsmall⟩, Except.ok.inj h⟩, fun h => congrArg Except.ok h.2⟩

/-- Settles O6: the two checks of `commandOf` are the assembler's operand rules. -/
theorem assemblerOperandRules : Obligations.AssemblerOperandRules := by
  intro m ops
  refine ⟨Iff.intro ?_ ?_, fun i h => ?_⟩
  · rintro ⟨i, h⟩
    exact (commandOf_eq_ok_iff.mp h).1
  · exact fun h => ⟨_, commandOf_eq_ok_iff.mpr ⟨h, rfl⟩⟩
  · rw [← (commandOf_eq_ok_iff.mp h).2, Mnemonic.mnemonic_instr]

end Sys2Proof.Machine
end

section
/-! SUPPORT. The host's window accesses as steps (R32, R80, R88, R340): what each address of the window reads and
writes, the write of CMD, and the register map (R33, R34, R59). -/

namespace Sys2Proof.Machine

variable {s t : State} {rest : List HostAction} {a : HostAction} {w v pos : Word} {off addr k : Nat} {i : Instr}

/-! ### Addresses of the window (R32, R80, R88) -/

/-- An aligned word access inside the window reaches the register or memory at its offset. -/
theorem accessWindow_of_aligned (access : Nat → Host.Outcome State Fault Refusal) (hoff : off < 0x1000)
    (haligned : off % 4 = 0) : accessWindow .word (s.params.hfmBase + off) s access = access off := by
  simp [accessWindow, windowOffset, isAligned, hoff, haligned]

theorem accessWindow_of_unaligned {width : AccessWidth} (access : Nat → Host.Outcome State Fault Refusal)
    (hlow : s.params.hfmBase ≤ addr) (hhigh : addr < s.params.hfmBase + 0x1000)
    (hbad : width ≠ .word ∨ (addr - s.params.hfmBase) % 4 ≠ 0) :
    accessWindow width addr s access = .refused .narrowOrMisaligned := by
  have halign : isAligned width (addr - s.params.hfmBase) = false := by
    rcases hbad with hwidth | hoff
    · simp [isAligned, hwidth]
    · simp [isAligned, hoff]
  simp [accessWindow, windowOffset, hlow, hhigh, halign]

theorem accessWindow_of_outside {width : AccessWidth} (access : Nat → Host.Outcome State Fault Refusal)
    (hout : addr < s.params.hfmBase ∨ s.params.hfmBase + 0x1000 ≤ addr) :
    accessWindow width addr s access = .fault .outsideWindow := by
  have hnot : ¬ (s.params.hfmBase ≤ addr ∧ addr < s.params.hfmBase + 0x1000) := by omega
  simp only [accessWindow, windowOffset, if_neg hnot]

/-- Settles O10: the address decides before the access does anything. -/
theorem badWindowAccessStops : Obligations.BadWindowAccessStops := by
  intro s width addr v rest a ha hactions
  rw [step_of_action hactions]
  rcases ha with rfl | rfl
  · exact ⟨fun hlow hhigh hbad => accessWindow_of_unaligned _ hlow hhigh hbad, fun hout => accessWindow_of_outside _ hout⟩
  · exact ⟨fun hlow hhigh hbad => accessWindow_of_unaligned _ hlow hhigh hbad, fun hout => accessWindow_of_outside _ hout⟩

/-- A step that performs an aligned write of the window. -/
theorem step_of_writeWindow (h : s.hostActions = .writeWindow .word (s.params.hfmBase + off) v :: rest)
    (hoff : off < 0x1000) (haligned : off % 4 = 0) :
    step s = writeWindowAt off v { s with hostActions := rest } :=
  (step_of_action h).trans (accessWindow_of_aligned (s := { s with hostActions := rest }) _ hoff haligned)

/-- Settles O11: the access is aligned and inside the window, and a read writes the host's read value alone. -/
theorem windowReadsHaveNoSideEffect : Obligations.WindowReadsHaveNoSideEffect := by
  intro s off rest haligned hoff h
  exact (step_of_action h).trans (accessWindow_of_aligned (s := { s with hostActions := rest }) _ hoff haligned)

/-! ### Writes of the window (R40, R51, R91, R150) -/

theorem writeWindowAt_cmd (w : Word) (s : State) : writeWindowAt 0 w s = issueCommand w s := rfl

theorem writeWindowAt_srclen (hidle : s.status.busy = false) :
    writeWindowAt 0x01C v s = .next { s with srclen := v } := by
  simp [writeWindowAt, WindowReg.offset, hidle]

theorem writeWindowAt_other (hcmd : off ≠ 0) (hsrclen : off ≠ 0x01C) : writeWindowAt off v s = .next s := by
  simp [writeWindowAt, WindowReg.offset, hcmd, hsrclen]

/-- Settles O9: of the offsets that are not CMD's only SRCLEN's is written. -/
theorem hostWindowWrites : Obligations.HostWindowWrites := by
  intro s off v rest hidle haligned hoff hcmd h
  rw [step_of_writeWindow h hoff haligned]
  split_ifs with hsrclen
  · subst hsrclen
    exact writeWindowAt_srclen hidle
  · exact writeWindowAt_other hcmd hsrclen

theorem issueCommand_of_ok (hidle : s.status.busy = false) (h : decode w = .ok i) :
    issueCommand w s = exec i s := by
  simp [issueCommand, hidle, h]

theorem issueCommand_of_busy (hbusy : s.status.busy = true) : issueCommand w s = .next s := by
  simp [issueCommand, hbusy]

/-- A step that performs a write of CMD (R150). -/
theorem step_of_writeCmd (h : s.hostActions = .writeWindow .word s.params.hfmBase w :: rest) :
    step s = issueCommand w { s with hostActions := rest } := by
  rw [step_of_writeWindow (off := 0) h (by decide) rfl, writeWindowAt_cmd]

/-- Settles O8: a busy core answers a word with its own state. -/
theorem busyCommandWriteIsLost : Obligations.BusyCommandWriteIsLost := by
  intro s w rest hbusy h
  exact (step_of_writeCmd h).trans (issueCommand_of_busy (s := { s with hostActions := rest }) hbusy)

/-- The word that `withFetchWord` offers is the next one an idle core runs. -/
theorem step_withFetchWord (hidle : s.status.busy = false) (n : Nat) :
    step (s.withFetchWord 32 n) = issueCommand (BitVec.ofNat 32 n) s := by
  have hword : BitVec.ofNat 32 (n % 2 ^ 32) = BitVec.ofNat 32 n :=
    BitVec.eq_of_toNat_eq (by simp)
  have hstep : step (s.withFetchWord 32 n) =
      issueCommand (BitVec.ofNat 32 (n % 2 ^ 32)) { s with status := { s.status with busy := false } } :=
    step_of_writeCmd (s := s.withFetchWord 32 n) rfl
  rw [hstep, hword, ← hidle]

/-- Settles O7: the write of CMD is one host action, and the idle core issues its word. -/
theorem stepRunsTheWrittenCommand : Obligations.StepRunsTheWrittenCommand := by
  refine ⟨fun s w rest h hidle => ⟨fun i hi => ?_, fun e he => ?_⟩, fun s n i hidle hi => ?_,
    fun s h => step_of_no_action h⟩
  · rw [step_of_writeCmd h, issueCommand_of_ok (s := { s with hostActions := rest }) hidle hi]
  · rw [step_of_writeCmd h, issueCommand_of_error (s := { s with hostActions := rest }) hidle he]
  · rw [step_withFetchWord hidle, issueCommand_of_ok hidle hi]

/-! ### IN and OUT (R81, R82, R94) -/

/-- Settles O12: the laws of a byte memory, for the one byte that the host writes or reads. -/
theorem hostMemoryAccesses : Obligations.HostMemoryAccesses := by
  refine ⟨fun s pos v rest h => ⟨fun hbusy => ?_, fun hidle hwf => ?_⟩,
    fun s pos rest h => ⟨fun hbusy => ?_, fun hidle hpos => ?_⟩⟩
  · exact (step_of_action h).trans (if_pos hbusy)
  · refine ⟨Memory.write s.inMem pos.toNat v, ?_, Memory.write_wf hwf, Memory.read_write_same hwf,
      fun p hp => Memory.read_write_other hp⟩
    exact (step_of_action h).trans (if_neg (by simp [hidle]))
  · exact (step_of_action h).trans (if_pos hbusy)
  · exact (step_of_action h).trans ((if_neg (by simp [hidle])).trans (if_pos hpos))

/-! ### The register map (R33, R34) -/

/-- Bit `j` of a flag placed at bit `k` of a word. -/
theorem getLsbD_bitAt {b : Bool} {j : Nat} (hk : k < 32) : (bitAt k b).getLsbD j = (decide (j = k) && b) := by
  cases b
  · simp [bitAt]
  · simp only [bitAt, if_true, BitVec.getLsbD_shiftLeft, BitVec.getLsbD_one]
    grind

/-- Each STATUS bit is the flag of its place, and above bit 8 there is none (R34). -/
theorem Status.getLsbD_word (st : Status) (j : Nat) :
    st.word.getLsbD j =
      ([st.busy, st.done, st.err, st.sticky, st.freqValid, st.alphaValid, st.cfgValid, st.treeValid,
        st.outValid][j]?.getD false) := by
  simp only [Status.word, BitVec.getLsbD_or, getLsbD_bitAt (show (0 : Nat) < 32 by decide),
    getLsbD_bitAt (show (1 : Nat) < 32 by decide), getLsbD_bitAt (show (2 : Nat) < 32 by decide),
    getLsbD_bitAt (show (3 : Nat) < 32 by decide), getLsbD_bitAt (show (4 : Nat) < 32 by decide),
    getLsbD_bitAt (show (5 : Nat) < 32 by decide), getLsbD_bitAt (show (6 : Nat) < 32 by decide),
    getLsbD_bitAt (show (7 : Nat) < 32 by decide), getLsbD_bitAt (show (8 : Nat) < 32 by decide)]
  by_cases hj : j < 9
  · interval_cases j <;> simp
  · rw [List.getElem?_eq_none (by simpa using hj)]
    simp
    omega

/-- Settles O13: the offset of each register finds that register first in the map. -/
theorem registerMapReads : Obligations.RegisterMapReads := by
  refine ⟨fun s => ⟨rfl, rfl, rfl, rfl, rfl, rfl, rfl, rfl, rfl, rfl, rfl, rfl, rfl, rfl, rfl, rfl, rfl⟩, fun st => ?_⟩
  refine ⟨st.getLsbD_word 0, st.getLsbD_word 1, st.getLsbD_word 2, st.getLsbD_word 3, st.getLsbD_word 4,
    st.getLsbD_word 5, st.getLsbD_word 6, st.getLsbD_word 7, st.getLsbD_word 8, fun k hk => ?_⟩
  rw [st.getLsbD_word, List.getElem?_eq_none (by simpa using hk)]
  rfl

/-! ### The memory windows (R59) -/

/-- No register stands above offset 0x040 (R33). -/
theorem windowRead_of_memory (hoff : 0x044 ≤ off) : windowRead s off = readMemoryWindow s off := by
  have hreg : ∀ r : WindowReg, r.offset < 0x044 := fun r => by cases r <;> decide
  have hnone : windowRegs.find? (fun r => r.offset == off) = none := by
    refine List.find?_eq_none.mpr fun r _ => ?_
    have := hreg r
    simp only [beq_iff_eq]
    omega
  simp [windowRead, hnone]

/-- Each memory window gives its entry at four bytes an entry, eight for NODE (R59). -/
theorem windowRead_buf (hk : k < 8) : windowRead s (0x100 + 4 * k) = s.buf[k].setWidth 32 := by
  rw [windowRead_of_memory (by omega), readMemoryWindow, if_pos (by omega),
    show (0x100 + 4 * k - 0x100) / 4 = k by omega]
  simp [hk]

theorem windowRead_freq (hk : k < 128) : windowRead s (0x200 + 4 * k) = s.freq[k] := by
  rw [windowRead_of_memory (by omega), readMemoryWindow, if_neg (by omega), if_pos (by omega),
    show (0x200 + 4 * k - 0x200) / 4 = k by omega]
  simp [hk]

theorem windowRead_alpha (hk : k < 128) : windowRead s (0x400 + 4 * k) = s.alpha[k].setWidth 32 := by
  rw [windowRead_of_memory (by omega), readMemoryWindow, if_neg (by omega), if_neg (by omega), if_pos (by omega),
    show (0x400 + 4 * k - 0x400) / 4 = k by omega]
  simp [hk]

theorem windowRead_leaf (hk : k < 128) : windowRead s (0x600 + 4 * k) = s.leaf[k].setWidth 32 := by
  rw [windowRead_of_memory (by omega), readMemoryWindow, if_neg (by omega), if_neg (by omega), if_neg (by omega),
    if_pos (by omega), show (0x600 + 4 * k - 0x600) / 4 = k by omega]
  simp [hk]

theorem windowRead_node (hoff : 0x800 ≤ off) (hk : (off - 0x800) / 8 = k) (hlt : k < 255) :
    windowRead s off = if off % 8 = 0 then s.node[k].freq else nodeLinks s.node[k] := by
  rw [windowRead_of_memory (by omega), readMemoryWindow, if_neg (by omega), if_neg (by omega), if_neg (by omega),
    if_neg (by omega), if_pos (by omega), hk]
  simp [hlt]

theorem windowRead_unlisted (haligned : off % 4 = 0)
    (hout : 0x044 ≤ off ∧ off < 0x100 ∨ 0x120 ≤ off ∧ off < 0x200 ∨ 0xFF8 ≤ off) : windowRead s off = 0 := by
  rw [windowRead_of_memory (by omega), readMemoryWindow, if_neg (by omega), if_neg (by omega), if_neg (by omega),
    if_neg (by omega), if_neg (by omega)]

/-- Bit by bit, a links word holds the four fields of its node and nothing above them (R59). -/
theorem getLsbD_nodeLinks (nd : Node) (j : Nat) :
    (nodeLinks nd).getLsbD j =
      if j < 8 then nd.left.getLsbD j
      else if j < 16 then nd.right.getLsbD (j - 8)
      else if j < 24 then nd.sym.getLsbD (j - 16)
      else decide (j = 24) && nd.isLeaf := by
  have hflag := getLsbD_bitAt (b := nd.isLeaf) (j := j) (show 24 < 32 by decide)
  simp only [nodeLinks, BitVec.getLsbD_or, BitVec.getLsbD_setWidth, BitVec.getLsbD_shiftLeft, hflag]
  grind

theorem nodeLinks_left (nd : Node) : (nodeLinks nd).extractLsb' 0 8 = nd.left :=
  BitVec.eq_of_getLsbD_eq fun j hj => by simp [getLsbD_nodeLinks, hj]

theorem nodeLinks_right (nd : Node) : (nodeLinks nd).extractLsb' 8 8 = nd.right :=
  BitVec.eq_of_getLsbD_eq fun j hj => by
    rw [BitVec.getLsbD_extractLsb', getLsbD_nodeLinks, if_neg (by omega), if_pos (by omega)]
    simp [hj]

theorem nodeLinks_sym (nd : Node) : (nodeLinks nd).extractLsb' 16 8 = nd.sym :=
  BitVec.eq_of_getLsbD_eq fun j hj => by
    rw [BitVec.getLsbD_extractLsb', getLsbD_nodeLinks, if_neg (by omega), if_neg (by omega), if_pos (by omega)]
    simp [hj]

/-- Settles O14: window by window, each entry at its offset. -/
theorem memoryWindowReads : Obligations.MemoryWindowReads := by
  intro s
  refine ⟨fun k hk => windowRead_buf hk, fun c hc => windowRead_freq hc, fun k hk => windowRead_alpha hk,
    fun k hk => windowRead_leaf hk, fun k hk => ?_, fun off haligned hout => windowRead_unlisted haligned hout⟩
  have hfreq : windowRead s (0x800 + 8 * k) = s.node[k].freq := by
    rw [windowRead_node (k := k) (by omega) (by omega) hk, if_pos (by omega)]
  have hlinks : windowRead s (0x804 + 8 * k) = nodeLinks s.node[k] := by
    rw [windowRead_node (k := k) (by omega) (by omega) hk, if_neg (by omega)]
  rw [hlinks]
  refine ⟨hfreq, nodeLinks_left _, nodeLinks_right _, nodeLinks_sym _, getLsbD_nodeLinks _ 24, fun j hj => ?_⟩
  · rw [getLsbD_nodeLinks, if_neg (by omega), if_neg (by omega), if_neg (by omega)]
    simp
    omega

end Sys2Proof.Machine
end

section
/-! SUPPORT. What a command writes (R34 to R56, R150): its body, the fields that a body leaves alone, and the end the
epilogue records. -/

namespace Sys2Proof

/-- The body that the command cycle runs for a command (R150). -/
def Instr.body : Instr → Machine.State → Machine.Res Unit
  | .nop => Machine.bodyNop
  | .clear => Machine.bodyClear
  | .getbit a => Machine.bodyGetbit a
  | .setbit a b => Machine.bodySetbit a b
  | .bufclr => Machine.bodyBufclr
  | .putidx a b => Machine.bodyPutidx a b
  | .getidx a => Machine.bodyGetidx a
  | .width a => Machine.bodyWidth a
  | .geom a => Machine.bodyGeom a
  | .setcw a => Machine.bodySetcw a
  | .scan => Machine.bodyScan
  | .dedup => Machine.bodyDedup
  | .lookup a => Machine.bodyLookup a
  | .tree => Machine.bodyTree
  | .encode => Machine.bodyEncode
  | .decode => Machine.bodyDecode

theorem Instr.mnemonic_eq_clear_iff {i : Instr} : i.mnemonic = .clear ↔ i = .clear := by
  cases i <;> simp [Instr.mnemonic]

end Sys2Proof

namespace Sys2Proof.Machine

variable {s t : State} {i : Instr}

/-! ### A command is its body between prologue and epilogue (R150) -/

theorem exec_eq (i : Instr) (s : State) : exec i s = .next (epilogue (i.body (prologue s))) := by
  cases i <;> rfl

/-- What is true of the end of the body is true of the command's next state. -/
theorem exec_eq_next_iff : exec i s = .next t ↔ epilogue (i.body (prologue s)) = t := by
  rw [exec_eq, Host.Outcome.next.injEq]

/-- The code that the end of a body records: 0 for success, else that of R301. -/
def Res.code : Res Unit → BitVec 8
  | .ok _ _ => 0
  | .raise e _ => e.code

theorem epilogue_eq_finish (r : Res Unit) : epilogue r = r.state.finish r.code := by
  cases r <;> rfl

@[simp] theorem epilogue_errcode (r : Res Unit) : (epilogue r).errcode = r.code := by
  cases r <;> rfl

theorem Res.code_eq_zero_iff {r : Res Unit} : r.code = 0 ↔ ∃ s, r = .ok () s := by
  cases r with
  | ok u s => exact iff_of_true rfl ⟨s, rfl⟩
  | raise e s => exact iff_of_false e.code_ne_zero (by rintro ⟨_, h⟩; cases h)

/-! ### The fields a body leaves alone (R34 to R56)

A field that no command of a row can write is compared as it stands, every other one is masked with its reset value: two
states with the same mask differ in fields the row can write, and in no other. -/

/-- The state with every field masked that the command `m` can write. -/
def State.masked (m : Mnemonic) (s : State) : State :=
  { s with
    result := if m ∈ [.getbit, .getidx, .width, .geom, .lookup, .clear] then 0 else s.result
    cw := if m ∈ [.setcw, .encode, .decode, .clear] then 0 else s.cw
    cpb := if m ∈ [.setcw, .encode, .decode, .clear] then 0 else s.cpb
    bpb := if m ∈ [.setcw, .encode, .decode, .clear] then 0 else s.bpb
    inlen := if m ∈ [.scan, .encode, .decode, .clear] then 0 else s.inlen
    tlen := if m ∈ [.dedup, .encode, .decode, .clear] then 0 else s.tlen
    odl := if m ∈ [.encode, .decode, .clear] then 0 else s.odl
    emitted := if m ∈ [.encode, .decode, .clear] then 0 else s.emitted
    outlen := if m ∈ [.encode, .decode, .clear] then 0 else s.outlen
    totout := if m ∈ [.encode, .clear] then 0 else s.totout
    leafcount := if m ∈ [.tree, .encode, .clear] then 0 else s.leafcount
    root := if m ∈ [.tree, .encode, .clear] then 0 else s.root
    ncount := if m ∈ [.tree, .encode, .clear] then 0 else s.ncount
    buf := if m ∈ [.setbit, .bufclr, .putidx, .encode, .decode, .clear] then State.reset.buf else s.buf
    freq := if m ∈ [.scan, .encode] then State.reset.freq else s.freq
    alpha := if m ∈ [.dedup, .encode, .decode] then State.reset.alpha else s.alpha
    node := if m ∈ [.tree, .encode] then State.reset.node else s.node
    leaf := if m ∈ [.tree, .encode] then State.reset.leaf else s.leaf
    outMem := if m ∈ [.encode, .decode] then [] else s.outMem
    draws := if m ∈ [.encode, .decode] then 0 else s.draws
    ioOutcomes := if m ∈ [.scan, .encode, .decode] then [] else s.ioOutcomes
    status := { s.status with
      sticky := if m ∈ [.clear] then false else s.status.sticky
      freqValid := if m ∈ [.scan, .encode, .decode, .clear] then false else s.status.freqValid
      alphaValid := if m ∈ [.dedup, .scan, .encode, .decode, .clear] then false else s.status.alphaValid
      cfgValid := if m ∈ [.setcw, .encode, .decode, .clear] then false else s.status.cfgValid
      treeValid := if m ∈ [.tree, .encode, .scan, .dedup, .decode, .clear] then false else s.status.treeValid
      outValid := if m ∈ [.encode, .decode, .clear] then false else s.status.outValid } }

/-! ### The bodies inside ENCODE and DECODE, with the valid bits each can write -/

/-- SCAN writes FREQ, INLEN and three valid bits, and uses up I/O choices (R211). -/
theorem bodyScan_writes (s : State) : ∃ f len io fv av tv, (bodyScan s).state = { s with
    freq := f, inlen := len, ioOutcomes := io,
    status := { s.status with freqValid := fv, alphaValid := av, treeValid := tv } } := by
  unfold bodyScan
  split_ifs
  · exact ⟨s.freq, s.inlen, s.ioOutcomes, s.status.freqValid, s.status.alphaValid, s.status.treeValid, rfl⟩
  · obtain ⟨f, io, h⟩ := scanLoop_frame s.srclen.toNat 0
      { s with status := s.status.scanStart, freq := Vector.replicate 128 0 }
    cases hloop : scanLoop s.srclen.toNat 0 { s with status := s.status.scanStart, freq := Vector.replicate 128 0 } with
    | ok u s1 =>
      obtain rfl : s1 = _ := by simpa only [hloop, Res.state_ok] using h
      exact ⟨f, _, io, true, false, false, rfl⟩
    | raise e s1 =>
      obtain rfl : s1 = _ := by simpa only [hloop, Res.state_raise] using h
      exact ⟨f, _, io, false, false, false, rfl⟩

/-- DEDUP writes ALPHA, TLEN and two valid bits (R213). -/
theorem bodyDedup_writes (s : State) : ∃ a n av tv, (bodyDedup s).state = { s with
    alpha := a, tlen := n, status := { s.status with alphaValid := av, treeValid := tv } } := by
  unfold bodyDedup
  split_ifs
  · exact ⟨s.alpha, s.tlen, s.status.alphaValid, s.status.treeValid, rfl⟩
  · dsimp only
    split_ifs
    · exact ⟨_, s.tlen, false, false, rfl⟩
    · exact ⟨_, _, true, false, rfl⟩

/-- TREE writes NODE, LEAF, ROOT, NCOUNT, LEAFCOUNT and TREE_VALID (R245). -/
theorem bodyTree_writes (s : State) : ∃ nd lf r nc lc tv, (bodyTree s).state = { s with
    node := nd, leaf := lf, root := r, ncount := nc, leafcount := lc,
    status := { s.status with treeValid := tv } } := by
  unfold bodyTree
  split_ifs
  · exact ⟨s.node, s.leaf, s.root, s.ncount, s.leafcount, s.status.treeValid, rfl⟩
  · dsimp only
    split_ifs
    · exact ⟨_, _, _, _, _, false, rfl⟩
    · exact ⟨_, _, _, _, _, true, rfl⟩

/-- Taking a header writes ALPHA, INLEN, TLEN, ODL, the configuration and two valid bits, and uses up I/O choices
(R273 to R275). -/
theorem decodeHeader_writes (h : List Byte) (s : State) : ∃ a io len n od cw cp bp av cv,
    (decodeHeader h s).state = { s with
      alpha := a, ioOutcomes := io, inlen := len, tlen := n, odl := od, cw := cw, cpb := cp, bpb := bp,
      status := { s.status with alphaValid := av, cfgValid := cv } } := by
  unfold decodeHeader
  dsimp only
  split_ifs
  · exact ⟨s.alpha, s.ioOutcomes, s.inlen, s.tlen, s.odl, s.cw, s.cpb, s.bpb, _, _, rfl⟩
  · exact ⟨s.alpha, s.ioOutcomes, s.inlen, s.tlen, s.odl, s.cw, s.cpb, s.bpb, _, _, rfl⟩
  · obtain ⟨a, io, hread⟩ := readAlphabet_frame (hdrWord s.params.hdrEndian (h.drop 4)).toNat 16 0 s
    cases hloop : readAlphabet (hdrWord s.params.hdrEndian (h.drop 4)).toNat 16 0 s with
    | ok u s1 =>
      obtain rfl : s1 = _ := by simpa only [hloop, Res.state_ok] using hread
      exact ⟨a, io, _, _, _, _, _, _, true, true, rfl⟩
    | raise e s1 =>
      obtain rfl : s1 = _ := by simpa only [hloop, Res.state_raise] using hread
      exact ⟨a, io, s.inlen, s.tlen, s.odl, s.cw, s.cpb, s.bpb, _, _, rfl⟩

/-- The blocks and the tail of DECODE write BUF, EMITTED, OUT and OUTLEN and use up I/O choices (R276, R277). -/
theorem decodeData_writes (s : State) : ∃ b em m len io, (decodeData s).state =
    { s with buf := b, emitted := em, outMem := m, outlen := len, ioOutcomes := io } := by
  unfold decodeData
  obtain ⟨b, em, m, len, io, hblocks⟩ := decodeBlocks_frame (s.inlen.toNat / s.cpb.toNat) (16 + s.tlen.toNat) s
  cases hloop : decodeBlocks (s.inlen.toNat / s.cpb.toNat) (16 + s.tlen.toNat) s with
  | ok u s1 =>
    obtain rfl : s1 = _ := by simpa only [hloop, Res.state_ok] using hblocks
    obtain ⟨em', m', len', io', htail⟩ := decodeTail_frame (s.inlen.toNat % s.cpb.toNat)
      (16 + s.tlen.toNat + s.inlen.toNat / s.cpb.toNat * s.bpb.toNat)
      { s with buf := b, emitted := em, outMem := m, outlen := len, ioOutcomes := io }
    exact ⟨b, em', m', len', io', htail⟩
  | raise e s1 =>
    obtain rfl : s1 = _ := by simpa only [hloop, Res.state_raise] using hblocks
    exact ⟨b, em, m, len, io, rfl⟩

/-! ### ENCODE and DECODE up to the close -/

/-- What the parts of ENCODE keep, ENCODE keeps up to its close. -/
theorem encodeMain_keeps {P : State → Prop} (s : State) (hfresh : P s.freshSink)
    (hscan : ∀ u, P u → P (bodyScan u).state) (hdedup : ∀ u, P u → P (bodyDedup u).state)
    (htree : ∀ u, P u → P (bodyTree u).state) (hgain : ∀ u, P u → P (encodeGain u).state)
    (houtput : ∀ u, P u → P (encodeOutput u).state) : P (encodeMain s).state := by
  unfold encodeMain
  refine Res.andThen_keeps (hscan _ hfresh) fun _ _ _ h1 => Res.andThen_keeps (hdedup _ h1) fun _ _ _ h2 =>
    Res.andThen_keeps (htree _ h2) fun _ _ _ h3 => Res.andThen_keeps (hgain _ h3) fun _ _ _ h4 => houtput _ h4

/-- What the parts of DECODE keep, DECODE keeps up to its close. -/
theorem decodeMain_keeps {P : State → Prop} (s : State) (hstart : P s.decodeStart)
    (hread : ∀ u n pos acc, P u → P (readBytes n pos acc u).state) (hheader : ∀ u h, P u → P (decodeHeader h u).state)
    (hdata : ∀ u, P u → P (decodeData u).state) : P (decodeMain s).state := by
  unfold decodeMain
  dsimp only
  split_ifs
  · exact hstart
  · exact Res.andThen_keeps (hread _ _ _ _ hstart) fun _ _ _ h1 =>
      Res.andThen_keeps (hheader _ _ h1) fun _ _ _ h2 => hdata _ h2

theorem encodeMain_masked (s : State) : (encodeMain s).state.masked .encode = s.masked .encode := by
  refine encodeMain_keeps (P := fun t => t.masked .encode = s.masked .encode) s rfl
    (fun u hu => ?_) (fun u hu => ?_) (fun u hu => ?_) (fun u hu => ?_) (fun u hu => ?_)
  · obtain ⟨f, len, io, fv, av, tv, h⟩ := bodyScan_writes u
    rw [h, ← hu]; rfl
  · obtain ⟨a, n, av, tv, h⟩ := bodyDedup_writes u
    rw [h, ← hu]; rfl
  · obtain ⟨nd, lf, r, nc, lc, tv, h⟩ := bodyTree_writes u
    rw [h, ← hu]; rfl
  · rw [encodeGain_frame, ← hu]; rfl
  · obtain ⟨b, em, m, len, io, h⟩ := encodeOutput_frame u
    rw [h, ← hu]; rfl

theorem decodeMain_masked (s : State) : (decodeMain s).state.masked .decode = s.masked .decode := by
  refine decodeMain_keeps (P := fun t => t.masked .decode = s.masked .decode) s rfl
    (fun u n pos acc hu => ?_) (fun u h hu => ?_) (fun u hu => ?_)
  · obtain ⟨io, h⟩ := readBytes_frame n pos acc u
    rw [h, ← hu]; rfl
  · obtain ⟨a, io, len, n, od, cw, cp, bp, av, cv, h⟩ := decodeHeader_writes h u
    rw [h, ← hu]; rfl
  · obtain ⟨b, em, m, len, io, h⟩ := decodeData_writes u
    rw [h, ← hu]; rfl

/-- The ends of ENCODE and DECODE, after the close: they write OUT_VALID at most (R270, R278). -/
theorem sink_masked {m : Mnemonic} (hm : m = .encode ∨ m = .decode) (r : Res Unit) (f : Unit → State → Res Unit)
    (hf : ∀ u s, (f u s).state.masked m = s.masked m) :
    (spoilSink ((closeSink r).andThen f)).state.masked m = r.state.masked m := by
  obtain ⟨out, d, hspoil⟩ := spoilSink_frame ((closeSink r).andThen f)
  have hclose : (closeSink r).state.masked m = r.state.masked m := by
    rw [closeSink_state]
    rcases hm with rfl | rfl <;> rfl
  have hthen : ((closeSink r).andThen f).state.masked m = r.state.masked m :=
    Res.andThen_keeps (P := fun t => t.masked m = r.state.masked m) hclose fun u s1 _ h1 => (hf u s1).trans h1
  rw [hspoil, ← hthen]
  rcases hm with rfl | rfl <;> rfl

/-- The body of a command leaves every field alone that the command cannot write. -/
theorem body_masked (i : Instr) (s : State) : (i.body s).state.masked i.mnemonic = s.masked i.mnemonic := by
  cases i with
  | nop => rfl
  | clear => rfl
  | bufclr => rfl
  | getbit a => simp only [Instr.body, bodyGetbit]; split_ifs <;> rfl
  | setbit a b => simp only [Instr.body, bodySetbit]; split_ifs <;> rfl
  | putidx a b => simp only [Instr.body, bodyPutidx]; split_ifs <;> rfl
  | getidx a => simp only [Instr.body, bodyGetidx]; split_ifs <;> rfl
  | width a => simp only [Instr.body, bodyWidth]; split_ifs <;> rfl
  | geom a => simp only [Instr.body, bodyGeom]; split_ifs <;> rfl
  | setcw a => simp only [Instr.body, bodySetcw]; split_ifs <;> rfl
  | lookup a =>
    simp only [Instr.body, bodyLookup]
    split_ifs
    · rfl
    · cases lookupIndex s.alphabet a <;> rfl
  | scan =>
    obtain ⟨f, len, io, fv, av, tv, h⟩ := bodyScan_writes s
    exact (congrArg (State.masked .scan) h).trans rfl
  | dedup =>
    obtain ⟨a, n, av, tv, h⟩ := bodyDedup_writes s
    exact (congrArg (State.masked .dedup) h).trans rfl
  | tree =>
    obtain ⟨nd, lf, r, nc, lc, tv, h⟩ := bodyTree_writes s
    exact (congrArg (State.masked .tree) h).trans rfl
  | encode =>
    exact (sink_masked (.inl rfl) _ _ fun _ _ => rfl).trans (encodeMain_masked s)
  | decode =>
    refine (sink_masked (.inr rfl) _ _ fun _ u => ?_).trans (decodeMain_masked s)
    split_ifs <;> rfl

/-- What a function of the state reads through the mask, a command leaves as it found it, but for the epilogue. -/
theorem exec_keeps {α : Type} (f : State → α) (h : exec i s = .next t)
    (hmask : ∀ u, f (u.masked i.mnemonic) = f u) (hfinish : ∀ u code, f (State.finish u code) = f u)
    (hprologue : f (prologue s) = f s) : f t = f s := by
  rw [← exec_eq_next_iff.mp h, epilogue_eq_finish, hfinish, ← hmask, body_masked, hmask, hprologue]

/-- Settles O17: each field is compared through the mask of the command. -/
theorem commandsWriteOnlyTheirState : Obligations.CommandsWriteOnlyTheirState := by
  intro i s t h m
  have keeps {α : Type} (f : State → α) (hmask : ∀ u, f (u.masked m) = f u)
      (hfinish : ∀ u code, f (State.finish u code) = f u := by intros; rfl)
      (hprologue : f (prologue s) = f s := by rfl) : f t = f s := exec_keeps f h hmask hfinish hprologue
  refine ⟨⟨keeps State.srclen fun _ => rfl, keeps State.inMem fun _ => rfl, keeps State.params fun _ => rfl,
    keeps State.hostActions fun _ => rfl, keeps State.readData fun _ => rfl⟩, fun hm => ?_, fun hm => ?_,
    fun hm => ?_, fun hm => ?_, fun hm => ?_, fun hm => ?_, fun hm => ?_, fun hm => ?_, fun hm => ?_, fun hm => ?_,
    fun hm => ?_, fun hm => ?_, fun hm => ?_, fun hm => ?_, fun hm => ?_⟩
  · exact keeps State.result fun _ => if_neg hm
  · exact ⟨keeps State.cw fun _ => if_neg hm, keeps State.cpb fun _ => if_neg hm, keeps State.bpb fun _ => if_neg hm,
      keeps (fun u => u.status.cfgValid) fun _ => if_neg hm⟩
  · exact ⟨keeps State.inlen fun _ => if_neg hm, keeps (fun u => u.status.freqValid) fun _ => if_neg hm⟩
  · exact keeps State.tlen fun _ => if_neg hm
  · exact ⟨keeps State.odl fun _ => if_neg hm, keeps State.emitted fun _ => if_neg hm,
      keeps State.outlen fun _ => if_neg hm, keeps (fun u => u.status.outValid) fun _ => if_neg hm⟩
  · exact keeps State.totout fun _ => if_neg hm
  · exact ⟨keeps State.leafcount fun _ => if_neg hm, keeps State.root fun _ => if_neg hm,
      keeps State.ncount fun _ => if_neg hm⟩
  · exact keeps State.buf fun _ => if_neg hm
  · exact keeps State.freq fun _ => if_neg hm
  · exact keeps State.alpha fun _ => if_neg hm
  · exact ⟨keeps State.node fun _ => if_neg hm, keeps State.leaf fun _ => if_neg hm⟩
  · exact ⟨keeps State.outMem fun _ => if_neg hm, keeps State.draws fun _ => if_neg hm⟩
  · exact keeps State.ioOutcomes fun _ => if_neg hm
  · exact keeps (fun u => u.status.alphaValid) fun _ => if_neg hm
  · exact keeps (fun u => u.status.treeValid) fun _ => if_neg hm

/-! ### The end of the command cycle (R150, R152) -/

/-- Every command but CLEAR leaves STICKY to the epilogue. -/
theorem body_sticky (hi : i ≠ .clear) (s : State) : (i.body s).state.status.sticky = s.status.sticky := by
  have hm : i.mnemonic ∉ [.clear] := by rwa [List.mem_singleton, Instr.mnemonic_eq_clear_iff]
  have hmask : ∀ u : State, (u.masked i.mnemonic).status.sticky = u.status.sticky := fun _ => if_neg hm
  rw [← hmask, body_masked, hmask]

/-- The STICKY that a command leaves (R150, R152). -/
theorem exec_sticky (h : exec i s = .next t) (hi : i ≠ .clear) :
    t.status.sticky = (s.status.sticky || t.errcode != 0) := by
  rw [← exec_eq_next_iff.mp h, epilogue_eq_finish]
  exact congrArg (· || _) (body_sticky hi (prologue s))

/-- Settles O16: the epilogue records the end of every body. -/
theorem commandCycleRecordsTheEnd : Obligations.CommandCycleRecordsTheEnd := by
  intro i s
  refine ⟨_, exec_eq i s, ?_, ?_, ?_, ?_, exec_sticky (exec_eq i s)⟩
  · rw [epilogue_eq_finish]; rfl
  · rw [epilogue_eq_finish]; rfl
  · rw [epilogue_eq_finish]; rfl
  · rintro rfl
    exact ⟨rfl, rfl⟩

/-- Settles O23: CLEAR has format N and writes the fields R152 lists; STICKY is an OR for every other command. -/
theorem clearResetsRegisters : Obligations.ClearResetsRegisters := by
  refine ⟨fun w => decode_eq_ok_iff_of_format_n (i := .clear) rfl, fun s => ?_, fun i s t h hset hclear => ?_⟩
  · exact ⟨Vector.replicate 8 0, fun _ hk => Vector.getElem_replicate hk, rfl⟩
  · by_contra hi
    have hsticky := exec_sticky h hi
    rw [hclear, hset] at hsticky
    simp at hsticky

end Sys2Proof.Machine
end

section
/-! SUPPORT. Isolation (R57, R61, R81, R82, R331): two states that agree on everything a command can read end every
command in states that agree again. IN counts below SRCLEN, the tables where they are covered, OUT not at all; how far
the two sinks agree is a parameter. -/

namespace Sys2Proof.Machine

variable {α β : Type} {s t : State} {e : ErrKind} {n p k pos : Nat}

/-! ### Two runs side by side -/

/-- Two parts of a body end the same way, in states related by `Q` if they go on and by `P` if they raise. -/
def Res.Rel (Q P : State → State → Prop) : Res α → Res α → Prop
  | .ok a s, .ok b t => a = b ∧ Q s t
  | .raise e s, .raise f t => e = f ∧ P s t
  | _, _ => False

section
variable {Q Q' P P' : State → State → Prop} {r r' : Res α}

theorem Res.Rel.ok {a : α} (h : Q s t) : Res.Rel Q P (.ok a s) (.ok a t) := ⟨rfl, h⟩

theorem Res.Rel.raise (h : P s t) : Res.Rel (α := α) Q P (.raise e s) (.raise e t) := ⟨rfl, h⟩

/-- Related parts go on as related bodies. -/
theorem Res.Rel.andThen {f g : α → State → Res β} (h : Res.Rel Q P r r')
    (hfg : ∀ a s t, r = .ok a s → Q s t → Res.Rel Q' P (f a s) (g a t)) :
    Res.Rel Q' P (r.andThen f) (r'.andThen g) := by
  cases r with
  | ok a s =>
    cases r' with
    | ok b t => obtain ⟨rfl, h⟩ := h; exact hfg a s t rfl h
    | raise e t => exact h.elim
  | raise e s =>
    cases r' with
    | ok b t => exact h.elim
    | raise f t => exact h

/-- A weaker relation may use how the first run ended. -/
theorem Res.Rel.imp (h : Res.Rel Q P r r') (hQ : ∀ a s t, r = .ok a s → Q s t → Q' s t)
    (hP : ∀ e s t, r = .raise e s → P s t → P' s t) : Res.Rel Q' P' r r' := by
  cases r with
  | ok a s =>
    cases r' with
    | ok b t => exact ⟨h.1, hQ _ _ _ rfl h.2⟩
    | raise e t => exact h.elim
  | raise e s =>
    cases r' with
    | ok b t => exact h.elim
    | raise f t => exact ⟨h.1, hP _ _ _ rfl h.2⟩

end

/-! ### States that agree on what is covered -/

/-- A relation of two sinks of one OUTLEN that an append to both keeps, and a fresh sink, and a spoiled one. -/
structure SinkRel where
  rel : Word → Memory → Memory → Prop
  append : ∀ {len a b v}, rel len a b → rel (len + 1) (Memory.write a len.toNat v) (Memory.write b len.toNat v)
  fresh : ∀ {len a b}, rel len a b → rel 0 a b
  spoiled : ∀ len bs, rel len (Memory.ofBytes bs) (Memory.ofBytes bs)

/-- The part of the tables that is covered: FREQ or not, and which entries of ALPHA, NODE and LEAF. -/
structure Cover where
  freq : Prop
  alpha : Set Nat
  node : Set Nat
  leaf : Set Nat

/-- The memories of a state; everything else is its registers. -/
structure Memories where
  inMem : Memory
  outMem : Memory
  freq : Vector Word 128
  alpha : Vector Byte 128
  node : Vector Node 255
  leaf : Vector Byte 128

/-- The registers of `s` with the memories `M`. -/
def State.withMemories (s : State) (M : Memories) : State :=
  { s with inMem := M.inMem, outMem := M.outMem, freq := M.freq, alpha := M.alpha, node := M.node, leaf := M.leaf }

/-- Two states with the same registers, whose sources agree below SRCLEN, whose sinks are related and whose tables agree
where they are covered. -/
structure Agree (R : SinkRel) (C : Cover) (s t : State) : Prop where
  regs : ∃ M, t = s.withMemories M
  source : ∀ pos, pos < s.srclen.toNat → Memory.read t.inMem pos = Memory.read s.inMem pos
  sink : R.rel s.outlen s.outMem t.outMem
  freq : C.freq → t.freq = s.freq
  alpha : ∀ k ∈ C.alpha, t.alpha[k]? = s.alpha[k]?
  node : ∀ k ∈ C.node, t.node[k]? = s.node[k]?
  leaf : ∀ k ∈ C.leaf, t.leaf[k]? = s.leaf[k]?

variable {R : SinkRel} {C D : Cover}

/-- Less covered is less to agree on. -/
theorem Agree.mono (h : Agree R C s t) (hfreq : D.freq → C.freq) (halpha : D.alpha ⊆ C.alpha)
    (hnode : D.node ⊆ C.node) (hleaf : D.leaf ⊆ C.leaf) : Agree R D s t :=
  ⟨h.regs, h.source, h.sink, fun hf => h.freq (hfreq hf), fun k hk => h.alpha k (halpha hk),
    fun k hk => h.node k (hnode hk), fun k hk => h.leaf k (hleaf hk)⟩

/-- A register that no memory is part of is the same in both states. -/
theorem Agree.reg (h : Agree R C s t) (f : State → α) (hf : ∀ M, f (s.withMemories M) = f s := by intro; rfl) :
    f t = f s := by
  obtain ⟨M, rfl⟩ := h.regs
  exact hf M

theorem Agree.setBuf (h : Agree R C s t) (b : Vector Byte 8) : Agree R C (s.setBuf b) (t.setBuf b) := by
  obtain ⟨⟨M, rfl⟩, hsource, hsink, hfreq, halpha, hnode, hleaf⟩ := h
  exact ⟨⟨M, rfl⟩, hsource, hsink, hfreq, halpha, hnode, hleaf⟩

theorem Agree.addEmitted (h : Agree R C s t) (n : Nat) : Agree R C (s.addEmitted n) (t.addEmitted n) := by
  obtain ⟨⟨M, rfl⟩, hsource, hsink, hfreq, halpha, hnode, hleaf⟩ := h
  exact ⟨⟨M, rfl⟩, hsource, hsink, hfreq, halpha, hnode, hleaf⟩

theorem Agree.withIo (h : Agree R C s t) (io : List Bool) :
    Agree R C { s with ioOutcomes := io } { t with ioOutcomes := io } := by
  obtain ⟨⟨M, rfl⟩, hsource, hsink, hfreq, halpha, hnode, hleaf⟩ := h
  exact ⟨⟨M, rfl⟩, hsource, hsink, hfreq, halpha, hnode, hleaf⟩

/-- The Alphabets agree where every entry of them is covered. -/
theorem Agree.alphabet_eq (h : Agree R C s t) (hcover : ∀ k, k < s.tlen.toNat → k ∈ C.alpha) :
    t.alphabet = s.alphabet := by
  refine List.ext_getElem? fun k => ?_
  rw [State.alphabet_getElem?, State.alphabet_getElem?, h.reg State.tlen]
  split_ifs with hk
  · exact h.alpha k (hcover k hk)
  · rfl

/-! ### I/O events side by side (R81, R82, R90) -/

/-- A read below SRCLEN gives both runs the same byte. -/
theorem Agree.readIn (h : Agree R C s t) (hpos : pos < s.srclen.toNat) :
    Res.Rel (Agree R C) (Agree R C) (readIn pos s) (readIn pos t) := by
  rw [readIn_eq, readIn_eq, h.reg State.ioOutcomes, h.source pos hpos]
  split_ifs
  · exact .raise (h.withIo _)
  · exact .ok (h.withIo _)

theorem Agree.outByte (h : Agree R C s t) (b : Byte) :
    Res.Rel (Agree R C) (Agree R C) (outByte b s) (outByte b t) := by
  rw [outByte_eq, outByte_eq, h.reg State.ioOutcomes]
  split_ifs
  · exact .raise (h.withIo _)
  · obtain ⟨⟨M, rfl⟩, hsource, hsink, hfreq, halpha, hnode, hleaf⟩ := h
    exact .ok ⟨⟨{ M with outMem := _ }, rfl⟩, hsource, R.append hsink, hfreq, halpha, hnode, hleaf⟩

theorem Agree.outAppend (h : Agree R C s t) (bs : List Byte) :
    Res.Rel (Agree R C) (Agree R C) (outAppend bs s) (outAppend bs t) := by
  induction bs generalizing s t with
  | nil => exact .ok h
  | cons b bs ih => exact (h.outByte b).andThen fun _ _ _ _ h1 => ih h1

/-- The close of a successful exit is one event, and the only thing it can change is the code (R270, R278). -/
theorem closeSink_ok (u : Unit) (s : State) :
    closeSink (.ok u s) =
      if s.ioOutcomes.headD false then .raise .ioFailure { s with ioOutcomes := s.ioOutcomes.tail }
      else .ok () { s with ioOutcomes := s.ioOutcomes.tail } := by
  unfold closeSink
  simp only [takeIo_eq]
  cases s.ioOutcomes.headD false <;> rfl

/-! ### The loops side by side -/

/-- Counting the same byte on both sides. -/
theorem Agree.bumpFreq (h : Agree R C s t) (c : Nat) :
    Agree R C { s with freq := bumpFreq s.freq c } { t with freq := bumpFreq t.freq c } := by
  obtain ⟨⟨M, rfl⟩, hsource, hsink, hfreq, halpha, hnode, hleaf⟩ := h
  exact ⟨⟨{ M with freq := Machine.bumpFreq M.freq c }, rfl⟩, hsource, hsink,
    fun hf => congrArg (Machine.bumpFreq · c) (hfreq hf), halpha, hnode, hleaf⟩

theorem Agree.scanLoop (h : Agree R C s t) (hpos : pos + n ≤ s.srclen.toNat) :
    Res.Rel (Agree R C) (Agree R C) (scanLoop n pos s) (scanLoop n pos t) := by
  induction n generalizing pos s t with
  | zero => exact .ok h
  | succ n ih =>
    refine (h.readIn (by omega)).andThen fun b s1 t1 hread h1 => ?_
    have hsrclen := (readIn_of_ok hread).2.2.srclen
    split_ifs
    · exact .raise h1
    · exact ih (h1.bumpFreq b.toNat) (show pos + 1 + n ≤ s1.srclen.toNat by rw [hsrclen]; omega)

/-- Every entry of the Alphabet is covered. -/
def Cover.Alphabet (C : Cover) (s : State) : Prop := ∀ k, k < s.tlen.toNat → k ∈ C.alpha

theorem Cover.Alphabet.of_writes {bs : List Byte} (h : C.Alphabet s) (hw : Writes s bs t) : C.Alphabet t := by
  intro k hk
  exact h k (hw.tlen ▸ hk)

theorem Agree.encodeChars (h : Agree R C s t) (hcover : C.Alphabet s) (hpos : pos + n ≤ s.srclen.toNat) :
    Res.Rel (Agree R C) (Agree R C) (encodeChars n pos p s) (encodeChars n pos p t) := by
  induction n generalizing pos p s t with
  | zero => exact .ok h
  | succ n ih =>
    refine (h.readIn (by omega)).andThen fun b s1 t1 hread h1 => ?_
    have hw := (readIn_of_ok hread).2.2
    rw [h1.alphabet_eq (hcover.of_writes hw)]
    cases lookupIndex s1.alphabet b with
    | none => exact .raise h1
    | some k =>
      rw [h1.reg State.params, h1.reg State.cw, h1.reg State.buf]
      exact ih (h1.setBuf _) (hcover.of_writes (hw.setBuf _))
        (show pos + 1 + n ≤ s1.srclen.toNat by rw [hw.srclen]; omega)

theorem Agree.encodeBlocks (h : Agree R C s t) (hcover : C.Alphabet s) (hpos : pos + n * s.cpb.toNat ≤ s.srclen.toNat) :
    Res.Rel (Agree R C) (Agree R C) (encodeBlocks n pos s) (encodeBlocks n pos t) := by
  induction n generalizing pos s t with
  | zero => exact .ok h
  | succ n ih =>
    rw [Nat.succ_mul] at hpos
    rw [Machine.encodeBlocks, Machine.encodeBlocks, h.reg State.cpb]
    refine ((h.setBuf (Vector.replicate 8 0)).encodeChars hcover (show pos + s.cpb.toNat ≤ s.srclen.toNat by omega)).andThen
      fun _ s1 t1 hchars h1 => ?_
    have hw1 : Writes s [] s1 := ((Writes.refl s).setBuf _).trans (encodeChars_of_ok hchars).1
    rw [h1.reg State.buf, h1.reg State.bpb]
    refine (h1.outAppend _).andThen fun _ s2 t2 happend h2 => ?_
    have hw2 := hw1.trans (outAppend_of_ok happend)
    rw [h2.reg State.cpb, hw2.cpb]
    refine ih (h2.addEmitted _) (hcover.of_writes (hw2.addEmitted _)) ?_
    show pos + s.cpb.toNat + n * s2.cpb.toNat ≤ s2.srclen.toNat
    rw [hw2.srclen, hw2.cpb]
    omega

theorem Agree.copyTail (h : Agree R C s t) (hpos : pos + n ≤ s.srclen.toNat) :
    Res.Rel (Agree R C) (Agree R C) (copyTail n pos s) (copyTail n pos t) := by
  induction n generalizing pos s t with
  | zero => exact .ok h
  | succ n ih =>
    refine (h.readIn (by omega)).andThen fun b s1 t1 hread h1 => ?_
    refine (h1.outByte b).andThen fun _ s2 t2 happend h2 => ?_
    have hw := (readIn_of_ok hread).2.2.trans (outByte_of_ok happend)
    exact ih (h2.addEmitted 1) (show pos + 1 + n ≤ s2.srclen.toNat by rw [hw.srclen]; omega)

theorem Agree.readBytes {acc : List Byte} (h : Agree R C s t) (hpos : pos + n ≤ s.srclen.toNat) :
    Res.Rel (Agree R C) (Agree R C) (readBytes n pos acc s) (readBytes n pos acc t) := by
  induction n generalizing pos acc s t with
  | zero => exact .ok h
  | succ n ih =>
    refine (h.readIn (by omega)).andThen fun b s1 t1 hread h1 => ?_
    exact ih h1 (show pos + 1 + n ≤ s1.srclen.toNat by rw [(readIn_of_ok hread).2.2.srclen]; omega)

/-- The cover with the entries of ALPHA from `k` on, `n` of them, added. -/
def Cover.withAlpha (C : Cover) (k n : Nat) : Cover := { C with alpha := C.alpha ∪ {j | k ≤ j ∧ j < k + n} }

/-- An entry of ALPHA that both sides write is covered from then on. -/
theorem Agree.setAlpha (h : Agree R C s t) (k : Nat) (b : Byte) :
    Agree R (C.withAlpha k 1) { s with alpha := s.alpha.setIfInBounds k b }
      { t with alpha := t.alpha.setIfInBounds k b } := by
  obtain ⟨⟨M, rfl⟩, hsource, hsink, hfreq, halpha, hnode, hleaf⟩ := h
  refine ⟨⟨{ M with alpha := M.alpha.setIfInBounds k b }, rfl⟩, hsource, hsink, hfreq, fun j hj => ?_, hnode, hleaf⟩
  show (M.alpha.setIfInBounds k b)[j]? = (s.alpha.setIfInBounds k b)[j]?
  rw [Vector.getElem?_setIfInBounds, Vector.getElem?_setIfInBounds]
  split_ifs with hkj hk
  · rfl
  · rfl
  · exact halpha j (hj.resolve_right fun hj => hkj (by have := hj.1; have := hj.2; omega))

theorem Agree.readAlphabet (h : Agree R C s t) (hpos : pos + n ≤ s.srclen.toNat) :
    Res.Rel (Agree R (C.withAlpha k n)) (Agree R C) (readAlphabet n pos k s) (readAlphabet n pos k t) := by
  induction n generalizing pos k s t C with
  | zero => exact .ok (h.mono id (fun j hj => hj.resolve_right fun hj => by have := hj.1; have := hj.2; omega)
      subset_rfl subset_rfl)
  | succ n ih =>
    refine (h.readIn (by omega)).andThen fun b s1 t1 hread h1 => ?_
    have hsrclen := (readIn_of_ok hread).2.2.srclen
    refine (ih (h1.setAlpha k b) (show pos + 1 + n ≤ s1.srclen.toNat by rw [hsrclen]; omega)).imp
      (fun _ s t _ h => h.mono id (fun j hj => ?_) subset_rfl subset_rfl)
      (fun _ s t _ h => h.mono id (fun j hj => .inl hj) subset_rfl subset_rfl)
    rcases hj with hj | ⟨hlow, hhigh⟩
    · exact .inl (.inl hj)
    · rcases Nat.eq_or_lt_of_le hlow with heq | hlt
      · exact .inl (.inr ⟨hlow, by omega⟩)
      · exact .inr ⟨hlt, by omega⟩

theorem Agree.readBlock {j : Nat} (h : Agree R C s t) (hpos : pos + n ≤ s.srclen.toNat) :
    Res.Rel (Agree R C) (Agree R C) (readBlock n pos j s) (readBlock n pos j t) := by
  induction n generalizing pos j s t with
  | zero => exact .ok h
  | succ n ih =>
    refine (h.readIn (by omega)).andThen fun b s1 t1 hread h1 => ?_
    rw [h1.reg State.buf]
    exact ih (h1.setBuf _) (show pos + 1 + n ≤ s1.srclen.toNat by rw [(readIn_of_ok hread).2.2.srclen]; omega)

theorem Agree.decodePositions (h : Agree R C s t) (hcover : C.Alphabet s) :
    Res.Rel (Agree R C) (Agree R C) (decodePositions n p s) (decodePositions n p t) := by
  induction n generalizing p s t with
  | zero => exact .ok h
  | succ n ih =>
    rw [Machine.decodePositions, Machine.decodePositions, h.reg State.params, h.reg State.cw, h.reg State.buf,
      h.reg State.tlen]
    split_ifs with hidx
    · exact .raise h
    · rw [h.alpha _ (hcover _ (Nat.lt_of_not_le hidx))]
      refine (h.outByte _).andThen fun _ s1 t1 happend h1 => ?_
      exact ih (h1.addEmitted 1) (hcover.of_writes ((outByte_of_ok happend).addEmitted 1))

/-- DECODE's parts write what an ENCODE's parts write when they succeed. -/
theorem readBlock_of_ok {j : Nat} (h : readBlock n pos j s = .ok () t) : Writes s [] t := by
  obtain ⟨b, io, hframe⟩ := readBlock_frame n pos j s
  rw [h] at hframe
  obtain rfl : t = _ := hframe
  exact .nil rfl rfl rfl

theorem decodePositions_of_ok (h : decodePositions n p s = .ok () t) : ∃ bs, Writes s bs t := by
  induction n generalizing p s with
  | zero => cases h; exact ⟨[], .refl _⟩
  | succ n ih =>
    rw [decodePositions] at h
    split_ifs at h
    obtain ⟨_, s1, happend, hrest⟩ := Res.andThen_eq_ok.mp h
    obtain ⟨bs, hw⟩ := ih hrest
    exact ⟨_, ((outByte_of_ok happend).addEmitted 1).trans hw⟩

theorem Agree.decodeBlocks (h : Agree R C s t) (hcover : C.Alphabet s) :
    Res.Rel (Agree R C) (Agree R C) (decodeBlocks n pos s) (decodeBlocks n pos t) := by
  induction n generalizing pos s t with
  | zero => exact .ok h
  | succ n ih =>
    rw [Machine.decodeBlocks, Machine.decodeBlocks, h.reg State.srclen, h.reg State.bpb]
    split_ifs with hlen
    · exact .raise h
    · refine (h.readBlock (Nat.le_of_not_lt hlen)).andThen fun _ s1 t1 hread h1 => ?_
      have hw1 := readBlock_of_ok hread
      rw [h1.reg State.cpb, h1.reg State.buf, h1.reg State.bpb]
      refine ((h1.setBuf _).decodePositions (hcover.of_writes (hw1.setBuf _))).andThen fun _ s2 t2 hpositions h2 => ?_
      obtain ⟨bs, hw2⟩ := decodePositions_of_ok hpositions
      rw [h2.reg State.bpb]
      exact ih h2 (hcover.of_writes ((hw1.setBuf _).trans hw2))

theorem Agree.decodeTail (h : Agree R C s t) :
    Res.Rel (Agree R C) (Agree R C) (decodeTail n pos s) (decodeTail n pos t) := by
  induction n generalizing pos s t with
  | zero => exact .ok h
  | succ n ih =>
    rw [Machine.decodeTail, Machine.decodeTail, h.reg State.srclen]
    split_ifs with hlen
    · exact .raise h
    · refine (h.readIn (Nat.lt_of_not_le hlen)).andThen fun b s1 t1 _ h1 => ?_
      exact (h1.outByte b).andThen fun _ s2 t2 _ h2 => ih (h2.addEmitted 1)

/-! ### The parts of ENCODE and DECODE side by side -/

/-- The output of an ENCODE that counted no more than its source. -/
theorem Agree.encodeOutput (h : Agree R C s t) (hcover : C.Alphabet s) (hinlen : s.inlen.toNat ≤ s.srclen.toNat) :
    Res.Rel (Agree R C) (Agree R C) (encodeOutput s) (encodeOutput t) := by
  have hheader : headerBytes t = headerBytes s := h.reg headerBytes
  rw [Machine.encodeOutput, Machine.encodeOutput, hheader]
  refine (h.outAppend _).andThen fun _ s1 t1 hhead h1 => ?_
  have hw1 := outAppend_of_ok hhead
  rw [h1.alphabet_eq (hcover.of_writes hw1)]
  refine (h1.outAppend _).andThen fun _ s2 t2 halphabet h2 => ?_
  have hw2 := hw1.trans (outAppend_of_ok halphabet)
  rw [h2.reg State.inlen, h2.reg State.cpb, hw2.inlen, hw2.cpb]
  have hblocks : s.inlen.toNat / s.cpb.toNat * s.cpb.toNat ≤ s.inlen.toNat := Nat.div_mul_le_self _ _
  refine (h2.encodeBlocks (hcover.of_writes hw2) (by rw [hw2.cpb, hw2.srclen]; omega)).andThen
    fun _ s3 t3 hpacked h3 => ?_
  have hsetup : s3.setup = s2.setup := by
    obtain ⟨b, em, m, len, io, hframe⟩ := encodeBlocks_frame (s.inlen.toNat / s.cpb.toNat) 0 s2
    rw [hpacked] at hframe
    exact (congrArg State.setup hframe).trans rfl
  have hinlen3 : s3.inlen = s.inlen := (congrArg State.inlen hsetup).trans hw2.inlen
  have hcpb3 : s3.cpb = s.cpb := (congrArg State.cpb hsetup).trans hw2.cpb
  have hsrclen3 : s3.srclen = s.srclen := (congrArg State.srclen hsetup).trans hw2.srclen
  rw [h3.reg State.inlen, h3.reg State.cpb, hinlen3, hcpb3]
  refine h3.copyTail ?_
  have hsplit := Nat.div_add_mod' s.inlen.toNat s.cpb.toNat
  rw [hsrclen3]
  omega

/-- The blocks and the tail of DECODE, which test each position against SRCLEN (R276, R277). -/
theorem Agree.decodeData (h : Agree R C s t) (hcover : C.Alphabet s) :
    Res.Rel (Agree R C) (Agree R C) (decodeData s) (decodeData t) := by
  rw [Machine.decodeData, Machine.decodeData, h.reg State.inlen, h.reg State.cpb, h.reg State.tlen]
  refine (h.decodeBlocks hcover).andThen fun _ s1 t1 _ h1 => ?_
  rw [h1.reg State.inlen, h1.reg State.cpb, h1.reg State.tlen, h1.reg State.bpb]
  exact h1.decodeTail

/-- The registers that a header sets, with the width configured (R274, R275). -/
def State.takeHeader (h : List Byte) (s : State) : State :=
  let e := s.params.hdrEndian
  State.configure { s with
    inlen := hdrWord e h
    tlen := (hdrWord e (h.drop 4)).setWidth 8
    odl := hdrWord e (h.drop 12)
    status := { s.status with alphaValid := true } } (hdrWord e (h.drop 8)).toNat

theorem decodeHeader_eq (h : List Byte) (s : State) :
    decodeHeader h s =
      if !headerAccepted (hdrWord s.params.hdrEndian h) (hdrWord s.params.hdrEndian (h.drop 4))
          (hdrWord s.params.hdrEndian (h.drop 8)) then .raise .corruptHeader s
      else if s.srclen.toNat < 16 + (hdrWord s.params.hdrEndian (h.drop 4)).toNat then .raise .corruptHeader s
      else (readAlphabet (hdrWord s.params.hdrEndian (h.drop 4)).toNat 16 0 s).andThen
        fun _ s1 => .ok () (s1.takeHeader h) := by
  rw [decodeHeader]
  dsimp only
  split_ifs
  · rfl
  · rfl
  · obtain ⟨a, io, hframe⟩ := readAlphabet_frame (hdrWord s.params.hdrEndian (h.drop 4)).toNat 16 0 s
    cases hloop : readAlphabet (hdrWord s.params.hdrEndian (h.drop 4)).toNat 16 0 s with
    | ok u s1 =>
      obtain rfl : s1 = _ := by simpa only [hloop, Res.state_ok] using hframe
      rfl
    | raise e s1 => rfl

/-- An accepted header has a table length and a code width of their ranges (R273). -/
theorem headerAccepted_ranges {len table width : Word} (h : headerAccepted len table width = true) :
    len.toNat < 2 ^ 31 ∧ (1 ≤ table.toNat ∧ table.toNat ≤ 128) ∧ 1 ≤ width.toNat ∧ width.toNat ≤ 7 := by
  simp only [headerAccepted, Bool.and_eq_true, decide_eq_true_eq] at h
  obtain ⟨⟨⟨⟨hlen, htable1⟩, htable128⟩, hwidth1⟩, hwidth7⟩ := h
  have hlenInt := BitVec.toInt_eq_toNat_cond len
  have htableInt := BitVec.toInt_eq_toNat_cond table
  have hwidthInt := BitVec.toInt_eq_toNat_cond width
  have := len.isLt
  have := table.isLt
  have := width.isLt
  split_ifs at hlenInt htableInt hwidthInt <;> omega

/-- Two runs of DECODE take the same header; the Alphabet is covered from then on. -/
theorem Agree.decodeHeader (h : Agree R C s t) (bs : List Byte) :
    Res.Rel (fun s t => Agree R { C with alpha := C.alpha ∪ {j | j < s.tlen.toNat} } s t ∧ s.status.alphaValid = true)
      (Agree R C) (decodeHeader bs s) (decodeHeader bs t) := by
  rw [decodeHeader_eq, decodeHeader_eq, h.reg State.params, h.reg State.srclen]
  split_ifs with hfields hcut
  · exact .raise h
  · exact .raise h
  · simp only [Bool.not_eq_true', Bool.not_eq_false] at hfields
    obtain ⟨-, ⟨-, htable⟩, -⟩ := headerAccepted_ranges hfields
    refine (h.readAlphabet (Nat.le_of_not_lt hcut)).andThen fun _ s1 t1 hread h1 => .ok ⟨?_, rfl⟩
    have hparams : s1.params = s.params := by
      obtain ⟨a, io, hframe⟩ := readAlphabet_frame (hdrWord s.params.hdrEndian (bs.drop 4)).toNat 16 0 s
      exact (congrArg State.params ((congrArg Res.state hread).symm.trans hframe)).trans rfl
    have htlen : (s1.takeHeader bs).tlen.toNat = (hdrWord s.params.hdrEndian (bs.drop 4)).toNat := by
      rw [← hparams]
      exact (BitVec.toNat_setWidth ..).trans (Nat.mod_eq_of_lt (by rw [hparams]; omega))
    rw [htlen]
    obtain ⟨⟨M, rfl⟩, hsource, hsink, hfreq, halpha, hnode, hleaf⟩ := h1
    refine ⟨⟨M, rfl⟩, hsource, hsink, hfreq, fun j hj => halpha j (hj.imp_right fun hj => ?_), hnode, hleaf⟩
    exact ⟨Nat.zero_le j, by rw [Nat.zero_add]; exact hj⟩

end Sys2Proof.Machine
end

section
/-! SUPPORT. Every command side by side (R57, R61, R81, R82, R331): two states that agree on what the valid bits cover
end each command in states that agree on what the valid bits cover then. -/

namespace Sys2Proof.Machine

variable {R : SinkRel} {b : Prop} {s t : State} {e : ErrKind} {i : Instr} {k n : Nat}

/-! ### What the valid bits cover (R57) -/

/-- The tables that the valid bits cover; all of them if `b` holds. -/
def State.cover (b : Prop) (s : State) : Cover where
  freq := b ∨ s.status.freqValid = true
  alpha := {k | b ∨ s.status.alphaValid = true ∧ k < s.tlen.toNat}
  node := {k | b ∨ s.status.treeValid = true ∧ k < s.ncount.toNat}
  leaf := {k | b ∨ s.status.treeValid = true ∧ k < s.leafcount.toNat}

/-- Two states that agree on what their valid bits cover. -/
def Covered (R : SinkRel) (b : Prop) (s t : State) : Prop := Agree R (s.cover b) s t

theorem Agree.covered {u : State} (h : Agree R (u.cover b) s t) (hcover : s.cover b = u.cover b) : Covered R b s t := by
  rw [Covered, hcover]
  exact h

/-- A valid Alphabet is covered. -/
theorem State.cover_alphabet (h : s.status.alphaValid = true) : (s.cover b).Alphabet s := fun _ hk => .inr ⟨h, hk⟩

theorem Covered.closeSink {r r' : Res Unit} (h : Res.Rel (Covered R b) (Covered R b) r r') :
    Res.Rel (Covered R b) (Covered R b) (closeSink r) (closeSink r') := by
  cases r with
  | ok u s =>
    cases r' with
    | ok u t =>
      rw [closeSink_ok, closeSink_ok, h.2.reg State.ioOutcomes]
      split_ifs
      · exact .raise (h.2.withIo _)
      · exact .ok (h.2.withIo _)
    | raise e t => exact h.elim
  | raise e s =>
    cases r' with
    | ok u t => exact h.elim
    | raise f t =>
      obtain ⟨rfl, h⟩ := h
      rw [closeSink_raise, closeSink_raise, h.reg State.ioOutcomes]
      exact .raise (h.withIo _)

theorem Covered.spoilSink {r r' : Res Unit} (h : Res.Rel (Covered R b) (Covered R b) r r') :
    Res.Rel (Covered R b) (Covered R b) (spoilSink r) (spoilSink r') := by
  cases r with
  | ok u s =>
    cases r' with
    | ok u t => exact h
    | raise e t => exact h.elim
  | raise e s =>
    cases r' with
    | ok u t => exact h.elim
    | raise f t =>
      obtain ⟨rfl, h⟩ := h
      by_cases he : e = .ioFailure
      · subst he
        obtain ⟨⟨M, rfl⟩, hsource, -, hfreq, halpha, hnode, hleaf⟩ := h
        exact .raise ⟨⟨{ M with outMem := _ }, rfl⟩, hsource, R.spoiled _ _, hfreq, halpha, hnode, hleaf⟩
      · rw [spoilSink_raise_other e s he, spoilSink_raise_other e t he]
        exact .raise h

theorem Covered.epilogue {r r' : Res Unit} (h : Res.Rel (Covered R b) (Covered R b) r r') :
    Covered R b (epilogue r) (epilogue r') := by
  have hfinish {s t : State} (code : BitVec 8) (h : Covered R b s t) : Covered R b (s.finish code) (t.finish code) := by
    obtain ⟨⟨M, rfl⟩, hsource, hsink, hfreq, halpha, hnode, hleaf⟩ := h
    exact ⟨⟨M, rfl⟩, hsource, hsink, hfreq, halpha, hnode, hleaf⟩
  cases r with
  | ok u s =>
    cases r' with
    | ok u t => exact hfinish 0 h.2
    | raise e t => exact h.elim
  | raise e s =>
    cases r' with
    | ok u t => exact h.elim
    | raise f t =>
      obtain ⟨rfl, h⟩ := h
      exact hfinish e.code h

/-! ### Commands that read no memory -/

def State.memories (s : State) : Memories := ⟨s.inMem, s.outMem, s.freq, s.alpha, s.node, s.leaf⟩

/-- A part of a body that ends in the registers of `s` with other memories. -/
def Res.withMemories {α : Type} (M : Memories) : Res α → Res α
  | .ok a s => .ok a (s.withMemories M)
  | .raise e s => .raise e (s.withMemories M)

/-- What a body keeps, read through the mask of its command. -/
theorem body_keeps {α : Type} (f : State → α) (hmask : ∀ u, f (u.masked i.mnemonic) = f u) :
    f (i.body s).state = f s := by
  rw [← hmask, body_masked, hmask]

/-- A part that neither reads nor writes a memory keeps the agreement, with the cover its registers then have. -/
theorem Covered.of_local {α : Type} {body : State → Res α} (h : Covered R b s t)
    (hbody : ∀ M, body (s.withMemories M) = (body s).withMemories M)
    (hmem : (body s).state.memories = s.memories) (hsrclen : (body s).state.srclen = s.srclen)
    (houtlen : (body s).state.outlen = s.outlen) (hcover : (body s).state.cover b = s.cover b) :
    Res.Rel (Covered R b) (Covered R b) (body s) (body t) := by
  obtain ⟨⟨M, rfl⟩, hsource, hsink, hfreq, halpha, hnode, hleaf⟩ := h
  have key : Covered R b (body s).state ((body s).state.withMemories M) := by
    refine Agree.covered (u := s) ⟨⟨M, rfl⟩, ?_, ?_, ?_, ?_, ?_, ?_⟩ hcover
    · rw [hsrclen, show (body s).state.inMem = s.inMem from congrArg Memories.inMem hmem]
      exact hsource
    · rw [houtlen, show (body s).state.outMem = s.outMem from congrArg Memories.outMem hmem]
      exact hsink
    · rw [show (body s).state.freq = s.freq from congrArg Memories.freq hmem]
      exact hfreq
    · rw [show (body s).state.alpha = s.alpha from congrArg Memories.alpha hmem]
      exact halpha
    · rw [show (body s).state.node = s.node from congrArg Memories.node hmem]
      exact hnode
    · rw [show (body s).state.leaf = s.leaf from congrArg Memories.leaf hmem]
      exact hleaf
  rw [hbody]
  cases hs : body s with
  | ok a s' => rw [hs] at key; exact .ok key
  | raise e s' => rw [hs] at key; exact .raise key

/-- The commands on the operands, BUF and the configuration alone. -/
theorem body_withMemories (hi : i.mnemonic ∈ [.nop, .getbit, .setbit, .bufclr, .putidx, .getidx, .width, .geom, .setcw])
    (s : State) (M : Memories) : i.body (s.withMemories M) = (i.body s).withMemories M := by
  cases i with
  | nop => rfl
  | bufclr => rfl
  | getbit a => dsimp only [Instr.body, bodyGetbit]; split_ifs <;> rfl
  | setbit a b => dsimp only [Instr.body, bodySetbit]; split_ifs <;> rfl
  | putidx a b => dsimp only [Instr.body, bodyPutidx, State.withMemories]; split_ifs <;> rfl
  | getidx a => dsimp only [Instr.body, bodyGetidx, State.withMemories]; split_ifs <;> rfl
  | width a => dsimp only [Instr.body, bodyWidth]; split_ifs <;> rfl
  | geom a => dsimp only [Instr.body, bodyGeom]; split_ifs <;> rfl
  | setcw a => dsimp only [Instr.body, bodySetcw]; split_ifs <;> rfl
  | _ => simp [Instr.mnemonic] at hi

theorem Covered.body_of_local (h : Covered R b s t)
    (hi : i.mnemonic ∈ [.nop, .getbit, .setbit, .bufclr, .putidx, .getidx, .width, .geom, .setcw]) :
    Res.Rel (Covered R b) (Covered R b) (i.body s) (i.body t) := by
  have hmasks : ∀ u : State, (u.masked i.mnemonic).memories = u.memories ∧ (u.masked i.mnemonic).outlen = u.outlen ∧
      (u.masked i.mnemonic).cover b = u.cover b := by
    intro u
    generalize i.mnemonic = m at hi
    simp only [List.mem_cons, List.not_mem_nil, or_false] at hi
    rcases hi with rfl | rfl | rfl | rfl | rfl | rfl | rfl | rfl | rfl <;> exact ⟨rfl, rfl, rfl⟩
  exact h.of_local (body_withMemories hi s) (body_keeps State.memories fun u => (hmasks u).1)
    (body_keeps State.srclen fun _ => rfl) (body_keeps State.outlen fun u => (hmasks u).2.1)
    (body_keeps (State.cover b) fun u => (hmasks u).2.2)

/-! ### CLEAR and a fresh sink -/

theorem Covered.bodyClear (h : Covered R b s t) : Res.Rel (Covered R b) (Covered R b) (bodyClear s) (bodyClear t) := by
  obtain ⟨⟨M, rfl⟩, hsource, hsink, hfreq, halpha, hnode, hleaf⟩ := h
  refine .ok (Agree.mono (C := s.cover b) ⟨⟨M, rfl⟩, hsource, R.fresh hsink, hfreq, halpha, hnode, hleaf⟩ ?_ ?_ ?_ ?_)
  · exact fun hf => hf.imp_right fun hf => nomatch hf
  · exact fun k hk => hk.imp_right fun hk => nomatch hk.1
  · exact fun k hk => hk.imp_right fun hk => nomatch hk.1
  · exact fun k hk => hk.imp_right fun hk => nomatch hk.1

theorem Covered.freshSink (h : Covered R b s t) : Covered R b s.freshSink t.freshSink := by
  obtain ⟨⟨M, rfl⟩, hsource, hsink, hfreq, halpha, hnode, hleaf⟩ := h
  exact ⟨⟨M, rfl⟩, hsource, R.fresh hsink, hfreq, halpha, hnode, hleaf⟩

theorem Covered.markOutput (h : Covered R b s t) : Covered R b (markOutput s) (markOutput t) := by
  obtain ⟨⟨M, rfl⟩, hsource, hsink, hfreq, halpha, hnode, hleaf⟩ := h
  exact ⟨⟨M, rfl⟩, hsource, hsink, hfreq, halpha, hnode, hleaf⟩

/-! ### SCAN, DEDUP, LOOKUP and TREE -/

/-- SCAN counts into an empty FREQ, and nothing it covers at its end was read before. -/
theorem Covered.bodyScan (h : Covered R b s t) : Res.Rel (Covered R b) (Covered R b) (bodyScan s) (bodyScan t) := by
  rw [Machine.bodyScan, Machine.bodyScan, h.reg State.srclen]
  split_ifs
  · exact .raise h
  · obtain ⟨⟨M, rfl⟩, hsource, hsink, -, halpha, hnode, hleaf⟩ := h
    have hstart : Agree R ⟨True, {_k | b}, {_k | b}, {_k | b}⟩
        { s with status := s.status.scanStart, freq := Vector.replicate 128 0 }
        { s.withMemories M with status := s.status.scanStart, freq := Vector.replicate 128 0 } :=
      ⟨⟨{ M with freq := _ }, rfl⟩, hsource, hsink, fun _ => rfl, fun k hk => halpha k (.inl hk),
        fun k hk => hnode k (.inl hk), fun k hk => hleaf k (.inl hk)⟩
    have hloop := scanLoop_frame s.srclen.toNat 0
      { s with status := s.status.scanStart, freq := Vector.replicate 128 0 }
    refine Res.Rel.andThen ((hstart.scanLoop (n := s.srclen.toNat) (pos := 0)
      (by rw [Nat.zero_add])).imp (Q' := fun s t => Agree R ⟨True, {_k | b}, {_k | b}, {_k | b}⟩ s t ∧
        s.status.alphaValid = false ∧ s.status.treeValid = false) ?_ ?_) ?_
    · rintro _ s1 t1 hs1 h1
      obtain ⟨f, io, hframe⟩ := hloop
      rw [hs1] at hframe
      obtain rfl : s1 = _ := hframe
      exact ⟨h1, rfl, rfl⟩
    · rintro e s1 t1 hs1 h1
      obtain ⟨f, io, hframe⟩ := hloop
      rw [hs1] at hframe
      obtain rfl : s1 = _ := hframe
      exact h1.mono (fun _ => trivial) (fun k hk => hk.resolve_right fun hk => nomatch hk.1)
        (fun k hk => hk.resolve_right fun hk => nomatch hk.1) (fun k hk => hk.resolve_right fun hk => nomatch hk.1)
    · rintro _ s1 t1 - ⟨⟨⟨M1, rfl⟩, hsource1, hsink1, hfreq1, halpha1, hnode1, hleaf1⟩, halphaValid, htreeValid⟩
      refine .ok ⟨⟨M1, rfl⟩, hsource1, hsink1, fun _ => hfreq1 trivial,
        fun k hk => halpha1 k (hk.resolve_right fun hk => ?_), fun k hk => hnode1 k (hk.resolve_right fun hk => ?_),
        fun k hk => hleaf1 k (hk.resolve_right fun hk => ?_)⟩
      · exact absurd hk.1 (by simp [halphaValid])
      · exact absurd hk.1 (by simp [htreeValid])
      · exact absurd hk.1 (by simp [htreeValid])

/-- Two memories that a list is written into agree on its entries, and where they agreed. -/
theorem writeFrom_congr {γ : Type} {N : Nat} {v w : Vector γ N} (xs : List γ) (h : v[k]? = w[k]? ∨ k < xs.length) :
    (writeFrom v 0 xs)[k]? = (writeFrom w 0 xs)[k]? := by
  rw [writeFrom_getElem?, writeFrom_getElem?]
  split_ifs with hk
  · rfl
  · rcases h with h | h
    · exact h
    · rw [Vector.getElem?_eq_none (by omega), Vector.getElem?_eq_none (by omega)]

theorem toNat_ofNat_le (w n : Nat) : (BitVec.ofNat w n).toNat ≤ n := by
  rw [BitVec.toNat_ofNat]
  exact Nat.mod_le _ _

theorem Covered.bodyDedup (h : Covered R b s t) : Res.Rel (Covered R b) (Covered R b) (bodyDedup s) (bodyDedup t) := by
  rw [Machine.bodyDedup, Machine.bodyDedup, h.reg State.status]
  by_cases hvalid : s.status.freqValid = true
  · have hfreq : t.freq = s.freq := h.freq (.inr hvalid)
    rw [hfreq]
    obtain ⟨⟨M, rfl⟩, hsource, hsink, -, halpha, hnode, hleaf⟩ := h
    simp only [hvalid, Bool.not_true, Bool.false_eq_true, if_false]
    split_ifs
    · refine .raise ⟨⟨{ M with freq := _, alpha := _ }, rfl⟩, hsource, hsink, fun _ => rfl,
        fun k hk => writeFrom_congr _ (.inl (halpha k (hk.imp_right fun hk => nomatch hk.1))),
        fun k hk => hnode k (hk.imp_right fun hk => nomatch hk.1),
        fun k hk => hleaf k (hk.imp_right fun hk => nomatch hk.1)⟩
    · refine .ok ⟨⟨{ M with freq := _, alpha := _ }, rfl⟩, hsource, hsink, fun _ => rfl, fun k hk => writeFrom_congr _ ?_,
        fun k hk => hnode k (hk.imp_right fun hk => nomatch hk.1),
        fun k hk => hleaf k (hk.imp_right fun hk => nomatch hk.1)⟩
      rcases hk with hb | ⟨-, hk⟩
      · exact .inl (halpha k (.inl hb))
      · exact .inr (hk.trans_le (toNat_ofNat_le 8 _))
  · simp only [hvalid, Bool.not_false, if_true]
    exact .raise h

theorem Covered.bodyLookup (h : Covered R b s t) (a : Byte) :
    Res.Rel (Covered R b) (Covered R b) (bodyLookup a s) (bodyLookup a t) := by
  rw [Machine.bodyLookup, Machine.bodyLookup, h.reg State.status]
  by_cases hvalid : s.status.alphaValid = true
  · rw [h.alphabet_eq (State.cover_alphabet hvalid)]
    simp only [hvalid, Bool.not_true, Bool.false_eq_true, if_false]
    cases lookupIndex s.alphabet a with
    | none => exact .raise h
    | some k =>
      obtain ⟨⟨M, rfl⟩, hsource, hsink, hfreq, halpha, hnode, hleaf⟩ := h
      exact .ok ⟨⟨M, rfl⟩, hsource, hsink, hfreq, halpha, hnode, hleaf⟩
  · simp only [hvalid, Bool.not_false, if_true]
    exact .raise h

theorem Covered.bodyTree (h : Covered R b s t) : Res.Rel (Covered R b) (Covered R b) (bodyTree s) (bodyTree t) := by
  rw [Machine.bodyTree, Machine.bodyTree, h.reg State.status]
  by_cases hinvalid : (!s.status.alphaValid || !s.status.freqValid) = true
  · rw [if_pos hinvalid, if_pos hinvalid]
    exact .raise h
  · obtain ⟨halphaValid, hfreqValid⟩ : s.status.alphaValid = true ∧ s.status.freqValid = true := by simpa using hinvalid
    have hfreq : t.freq = s.freq := h.freq (.inr hfreqValid)
    rw [if_neg hinvalid, if_neg hinvalid, hfreq, h.alphabet_eq (State.cover_alphabet halphaValid), h.reg State.tlen]
    obtain ⟨⟨M, rfl⟩, hsource, hsink, -, halpha, hnode, hleaf⟩ := h
    dsimp only
    split_ifs
    · exact .raise ⟨⟨{ M with freq := _, node := _, leaf := _ }, rfl⟩, hsource, hsink, fun _ => rfl, halpha,
        fun k hk => writeFrom_congr _ (.inl (hnode k (hk.imp_right fun hk => nomatch hk.1))),
        fun k hk => writeFrom_congr _ (.inl (hleaf k (hk.imp_right fun hk => nomatch hk.1)))⟩
    · refine .ok ⟨⟨{ M with freq := _, node := _, leaf := _ }, rfl⟩, hsource, hsink, fun _ => rfl, halpha,
        fun k hk => writeFrom_congr _ ?_, fun k hk => writeFrom_congr _ ?_⟩
      · rcases hk with hb | ⟨-, hk⟩
        · exact .inl (hnode k (.inl hb))
        · exact .inr (hk.trans_le (toNat_ofNat_le 9 _))
      · rcases hk with hb | ⟨-, hk⟩
        · exact .inl (hleaf k (.inl hb))
        · exact .inr (hk.trans_le (toNat_ofNat_le 8 _))

/-! ### ENCODE -/

theorem encodeGain_of_gain (h : ¬ s.inlen.toNat ≤ totoutOf s.params s.tlen.toNat s.withGain.odl.toNat) :
    encodeGain s = .ok () s.withGain :=
  if_neg h

theorem Covered.encodeGain (h : Covered R b s t) :
    Res.Rel (Covered R b) (Covered R b) (encodeGain s) (encodeGain t) := by
  refine h.of_local (fun M => ?_) ?_ ?_ ?_ ?_
  · by_cases hgain : s.inlen.toNat ≤ totoutOf s.params s.tlen.toNat s.withGain.odl.toNat
    · rw [encodeGain_of_no_gain hgain]
      exact encodeGain_of_no_gain (s := s.withMemories M) hgain
    · rw [encodeGain_of_gain hgain]
      exact encodeGain_of_gain (s := s.withMemories M) hgain
  all_goals rw [encodeGain_frame]; rfl

/-- The valid bits of an ENCODE that has come to its output. -/
theorem bodyDedup_alphaValid (h : bodyDedup s = .ok () t) : t.status.alphaValid = true := by
  unfold bodyDedup at h
  dsimp only at h
  split_ifs at h
  cases h
  rfl

theorem Covered.encodeMain (h : Covered R b s t) :
    Res.Rel (Covered R b) (Covered R b) (encodeMain s) (encodeMain t) := by
  refine h.freshSink.bodyScan.andThen fun _ s1 t1 hscan h1 => h1.bodyDedup.andThen fun _ s2 t2 hdedup h2 =>
    h2.bodyTree.andThen fun _ s3 t3 htree h3 => h3.encodeGain.andThen fun _ s4 t4 hgain h4 => ?_
  obtain ⟨-, -, -, hinlen1, hports1⟩ := bodyScan_of_ok hscan
  obtain ⟨-, -, -, hinlen2, hports2⟩ := bodyDedup_of_ok hdedup
  obtain ⟨-, -, hinlen3, hports3⟩ := bodyTree_of_ok htree
  obtain ⟨-, -, -, -, -, -, -, hinlen4, hports4⟩ := encodeGain_of_ok hgain
  have hinlen : s4.inlen = s4.srclen := by
    rw [hinlen4, hinlen3, hinlen2, hinlen1, hports4.srclen, hports3.srclen, hports2.srclen, hports1.srclen]
  have halpha2 : s2.status.alphaValid = true := bodyDedup_alphaValid hdedup
  have halpha3 : s3.status.alphaValid = true := by
    obtain ⟨nd, lf, r, nc, lc, tv, hframe⟩ := bodyTree_writes s2
    rw [htree] at hframe
    exact (congrArg (fun u : State => u.status.alphaValid) hframe).trans halpha2
  have halpha4 : s4.status.alphaValid = true := by
    have hframe := encodeGain_frame s3
    rw [hgain] at hframe
    exact (congrArg (fun u : State => u.status.alphaValid) hframe).trans halpha3
  have hcover (u : State) (hu : u = (Machine.encodeOutput s4).state) : u.cover b = s4.cover b := by
    obtain ⟨bf, em, m, len, io, hframe⟩ := encodeOutput_frame s4
    rw [hu, hframe]
    rfl
  refine (Agree.encodeOutput h4 (State.cover_alphabet halpha4) (le_of_eq (congrArg _ hinlen))).imp ?_ ?_
  · exact fun _ u v hu huv => huv.covered (hcover u (by rw [hu, Res.state_ok]))
  · exact fun _ u v hu huv => huv.covered (hcover u (by rw [hu, Res.state_raise]))

theorem Covered.bodyEncode (h : Covered R b s t) :
    Res.Rel (Covered R b) (Covered R b) (bodyEncode s) (bodyEncode t) :=
  Covered.spoilSink ((Covered.closeSink h.encodeMain).andThen fun _ _ _ _ h1 => .ok h1.markOutput)

/-! ### DECODE -/

/-- DECODE starts with no valid bit set. -/
theorem Covered.decodeStart (h : Covered R b s t) : Covered R b s.decodeStart t.decodeStart := by
  obtain ⟨⟨M, rfl⟩, hsource, hsink, hfreq, halpha, hnode, hleaf⟩ := h
  refine Agree.mono (C := s.cover b) ⟨⟨M, rfl⟩, hsource, R.fresh hsink, hfreq, halpha, hnode, hleaf⟩ ?_ ?_ ?_ ?_
  · exact fun hf => hf.imp_right fun hf => nomatch hf
  · exact fun k hk => hk.imp_right fun hk => nomatch hk.1
  · exact fun k hk => hk.imp_right fun hk => nomatch hk.1
  · exact fun k hk => hk.imp_right fun hk => nomatch hk.1

/-- A header that is not taken leaves STATUS alone (R273). -/
theorem decodeHeader_raise_status {bs : List Byte} (h : decodeHeader bs s = .raise e t) : t.status = s.status := by
  rw [decodeHeader_eq] at h
  split_ifs at h
  · cases h; rfl
  · cases h; rfl
  · rcases Res.andThen_eq_raise.mp h with h | ⟨_, _, _, h⟩
    · obtain ⟨a, io, hframe⟩ := readAlphabet_frame (hdrWord s.params.hdrEndian (bs.drop 4)).toNat 16 0 s
      exact (congrArg State.status ((congrArg Res.state h).symm.trans hframe)).trans rfl
    · cases h

/-- Two states between the header and the end of a DECODE: FREQ and the tree are not valid. -/
theorem Covered.decodeHeader (h : Covered R b s t) (hfreq : s.status.freqValid = false)
    (halpha : s.status.alphaValid = false) (htree : s.status.treeValid = false) (bs : List Byte) :
    Res.Rel (fun s t => Covered R b s t ∧ s.status.alphaValid = true) (Covered R b) (decodeHeader bs s)
      (decodeHeader bs t) := by
  obtain ⟨a, io, len, n, od, cw, cp, bp, av, cv, hframe⟩ := decodeHeader_writes bs s
  refine (Agree.decodeHeader h bs).imp ?_ ?_
  · rintro _ u v hu ⟨huv, hvalid⟩
    rw [hu] at hframe
    have hfreq' : u.status.freqValid = false := (congrArg (fun u : State => u.status.freqValid) hframe).trans hfreq
    have htree' : u.status.treeValid = false := (congrArg (fun u : State => u.status.treeValid) hframe).trans htree
    refine ⟨huv.mono ?_ ?_ ?_ ?_, hvalid⟩
    · exact fun hf => hf.imp_right fun hf => absurd hf (by simp [hfreq'])
    · exact fun k hk => hk.elim (fun hb => .inl (.inl hb)) fun hk => .inr hk.2
    · exact fun k hk => hk.imp_right fun hk => absurd hk.1 (by simp [htree'])
    · exact fun k hk => hk.imp_right fun hk => absurd hk.1 (by simp [htree'])
  · intro e u v hu huv
    have hstatus := decodeHeader_raise_status hu
    refine huv.mono ?_ ?_ ?_ ?_
    · exact fun hf => hf.imp_right fun hf => absurd hf (by simp [hstatus, hfreq])
    · exact fun k hk => hk.imp_right fun hk => absurd hk.1 (by simp [hstatus, halpha])
    · exact fun k hk => hk.imp_right fun hk => absurd hk.1 (by simp [hstatus, htree])
    · exact fun k hk => hk.imp_right fun hk => absurd hk.1 (by simp [hstatus, htree])

theorem Covered.decodeData (h : Covered R b s t) (hvalid : s.status.alphaValid = true) :
    Res.Rel (Covered R b) (Covered R b) (decodeData s) (decodeData t) := by
  have hcover (u : State) (hu : u = (Machine.decodeData s).state) : u.cover b = s.cover b := by
    obtain ⟨bf, em, m, len, io, hframe⟩ := decodeData_writes s
    rw [hu, hframe]
    rfl
  refine (Agree.decodeData h (State.cover_alphabet hvalid)).imp ?_ ?_
  · exact fun _ u v hu huv => huv.covered (hcover u (by rw [hu, Res.state_ok]))
  · exact fun _ u v hu huv => huv.covered (hcover u (by rw [hu, Res.state_raise]))

theorem decodeMain_eq (s : State) :
    decodeMain s =
      if s.decodeStart.srclen.toNat < 16 then .raise .corruptHeader s.decodeStart
      else (readBytes 16 0 [] s.decodeStart).andThen fun h s1 => (decodeHeader h s1).andThen fun _ s2 => decodeData s2 :=
  rfl

theorem Covered.decodeMain (h : Covered R b s t) :
    Res.Rel (Covered R b) (Covered R b) (decodeMain s) (decodeMain t) := by
  have hstart := h.decodeStart
  rw [decodeMain_eq, decodeMain_eq, hstart.reg State.srclen]
  split_ifs with hshort
  · exact .raise hstart
  · have hstatus (u : State) (hu : u = (readBytes 16 0 [] s.decodeStart).state) : u.status = s.decodeStart.status ∧
        u.cover b = s.decodeStart.cover b := by
      obtain ⟨io, hframe⟩ := readBytes_frame 16 0 [] s.decodeStart
      rw [hu, hframe]
      exact ⟨rfl, rfl⟩
    refine Res.Rel.andThen ((Agree.readBytes hstart (Nat.le_of_not_lt hshort)).imp
      (fun _ u v hu huv => huv.covered (hstatus u (by rw [hu, Res.state_ok])).2)
      (fun _ u v hu huv => huv.covered (hstatus u (by rw [hu, Res.state_raise])).2)) fun bs s1 t1 hread h1 => ?_
    have hstatus1 := (hstatus s1 (by rw [hread, Res.state_ok])).1
    refine (h1.decodeHeader (by rw [hstatus1]; rfl) (by rw [hstatus1]; rfl) (by rw [hstatus1]; rfl) bs).andThen
      fun _ s2 t2 _ h2 => h2.1.decodeData h2.2

theorem Covered.bodyDecode (h : Covered R b s t) :
    Res.Rel (Covered R b) (Covered R b) (bodyDecode s) (bodyDecode t) := by
  refine Covered.spoilSink ((Covered.closeSink h.decodeMain).andThen fun _ s1 t1 _ h1 => ?_)
  rw [h1.reg State.emitted, h1.reg State.inlen]
  split_ifs
  · exact .raise h1
  · exact .ok h1.markOutput

/-! ### Every command -/

/-- Every body keeps the agreement. -/
theorem Covered.body (h : Covered R b s t) (i : Instr) :
    Res.Rel (Covered R b) (Covered R b) (i.body s) (i.body t) := by
  cases i with
  | clear => exact h.bodyClear
  | scan => exact h.bodyScan
  | dedup => exact h.bodyDedup
  | lookup a => exact h.bodyLookup a
  | tree => exact h.bodyTree
  | encode => exact h.bodyEncode
  | decode => exact h.bodyDecode
  | _ => exact h.body_of_local (by simp [Instr.mnemonic])

theorem Covered.prologue (h : Covered R b s t) : Covered R b (prologue s) (prologue t) := by
  obtain ⟨⟨M, rfl⟩, hsource, hsink, hfreq, halpha, hnode, hleaf⟩ := h
  exact ⟨⟨M, rfl⟩, hsource, hsink, hfreq, halpha, hnode, hleaf⟩

/-- Every command keeps the agreement. -/
theorem Covered.exec (h : Covered R b s t) (i : Instr) :
    ∃ s' t', exec i s = .next s' ∧ exec i t = .next t' ∧ Covered R b s' t' :=
  ⟨_, _, exec_eq i s, exec_eq i t, Covered.epilogue (h.prologue.body i)⟩

end Sys2Proof.Machine
end

section
/-! SUPPORT. What follows from running two states side by side: IN above SRCLEN, the old OUT and the uncovered tables
are never told (R57, R61, R81, R82, R331), and OUT stays canonical. -/

namespace Sys2Proof.Machine

variable {R : SinkRel} {s t : State} {i : Instr}

/-- Two vectors with the same entries, past the end included. -/
theorem vector_ext {α : Type} {n : Nat} {v w : Vector α n} (h : ∀ k : Nat, v[k]? = w[k]?) : v = w :=
  Vector.ext fun k hk => by simpa [hk] using h k

/-- Two states with every table covered differ in IN and OUT alone. -/
theorem Covered.eq_ports (h : Covered R True s t) : t = { s with inMem := t.inMem, outMem := t.outMem } := by
  obtain ⟨⟨M, rfl⟩, -, -, hfreq, halpha, hnode, hleaf⟩ := h
  have hfreq : M.freq = s.freq := hfreq (.inl trivial)
  have halpha : M.alpha = s.alpha := vector_ext fun k => halpha k (.inl trivial)
  have hnode : M.node = s.node := vector_ext fun k => hnode k (.inl trivial)
  have hleaf : M.leaf = s.leaf := vector_ext fun k => hleaf k (.inl trivial)
  simp only [State.withMemories, hfreq, halpha, hnode, hleaf]

/-- No command writes IN (R81). -/
theorem exec_inMem (h : exec i s = .next t) : t.inMem = s.inMem :=
  exec_keeps State.inMem h (fun _ => rfl) (fun _ _ => rfl) rfl

/-! ### IN at and above SRCLEN (R81) -/

/-- One sink for both runs. -/
def SinkRel.same : SinkRel where
  rel _ a b := b = a
  append h := congrArg (Memory.write · _ _) h
  fresh h := h
  spoiled _ _ := rfl

/-- Settles O54: the two states agree below SRCLEN and in everything else. -/
theorem sourceBeyondItsLengthIsIgnored : Obligations.SourceBeyondItsLengthIsIgnored := by
  intro i s t m h hm
  have hstart : Covered .same True s { s with inMem := m } :=
    ⟨⟨{ s.memories with inMem := m }, rfl⟩, hm, rfl, fun _ => rfl, fun _ _ => rfl, fun _ _ => rfl, fun _ _ => rfl⟩
  obtain ⟨t1, t2, ht1, ht2, hend⟩ := hstart.exec i
  obtain rfl : t = t1 := Host.Outcome.next.inj (h.symm.trans ht1)
  have hin : t2.inMem = m := exec_inMem ht2
  have hout : t2.outMem = t.outMem := hend.sink
  rw [ht2, hend.eq_ports, hin, hout]

/-! ### The old OUT (R82) -/

/-- Two sinks that, if `W` holds, are canonical and agree below OUTLEN. -/
def SinkRel.output (W : Prop) : SinkRel where
  rel len a b := W → a.wf = true ∧ b.wf = true ∧ ∀ pos, pos < len.toNat → Memory.read b pos = Memory.read a pos
  append {len a b v} h hW := by
    obtain ⟨ha, hb, hagree⟩ := h hW
    refine ⟨Memory.write_wf ha, Memory.write_wf hb, fun pos hpos => ?_⟩
    by_cases hlast : pos = len.toNat
    · rw [hlast, Memory.read_write_same ha, Memory.read_write_same hb]
    · have hpos : pos < len.toNat := by
        rw [BitVec.toNat_add] at hpos
        have := Nat.mod_le (len.toNat + (1 : Word).toNat) (2 ^ 32)
        have : (1 : Word).toNat = 1 := rfl
        omega
      rw [Memory.read_write_other hlast, Memory.read_write_other hlast, hagree pos hpos]
  fresh h hW := ⟨(h hW).1, (h hW).2.1, fun pos hpos => absurd hpos (Nat.not_lt_zero pos)⟩
  spoiled _ bs _ := ⟨Memory.ofBytes_wf bs, Memory.ofBytes_wf bs, fun _ _ => rfl⟩

/-- ENCODE and DECODE start with a fresh sink (R93, R260, R272). -/
theorem exec_freshSink (hi : i = .encode ∨ i = .decode) (s : State) : exec i s.freshSink = exec i s := by
  rcases hi with rfl | rfl <;> rfl

/-- Two states alike but for OUT end every command alike but for OUT. -/
theorem exec_with_outMem {W : Prop} {m : Memory} (h : exec i s = .next t)
    (hstart : (SinkRel.output W).rel s.outlen s.outMem m) :
    ∃ m', exec i { s with outMem := m } = .next { t with outMem := m' } ∧
      (SinkRel.output W).rel t.outlen t.outMem m' := by
  have hstart : Covered (.output W) True s { s with outMem := m } :=
    ⟨⟨{ s.memories with outMem := m }, rfl⟩, fun _ _ => rfl, hstart, fun _ => rfl, fun _ _ => rfl, fun _ _ => rfl,
      fun _ _ => rfl⟩
  obtain ⟨t1, t2, ht1, ht2, hend⟩ := hstart.exec i
  obtain rfl : t = t1 := Host.Outcome.next.inj (h.symm.trans ht1)
  have hin : t2.inMem = t.inMem := (exec_inMem ht2).trans (exec_inMem h).symm
  refine ⟨t2.outMem, ?_, hend.sink⟩
  rw [ht2, hend.eq_ports, hin]

/-- Settles O55: a command never reads OUT; ENCODE and DECODE write every byte below OUTLEN. -/
theorem oldOutputIsNeverRead : Obligations.OldOutputIsNeverRead := by
  intro i s t m h
  by_cases hi : i = .encode ∨ i = .decode
  · have hfresh : exec i s.freshSink = .next t := (exec_freshSink hi s).trans h
    obtain ⟨m', hexec, hagree⟩ := exec_with_outMem (W := s.outMem.wf = true ∧ m.wf = true) (m := m) hfresh
      fun hW => ⟨hW.1, hW.2, fun pos hpos => absurd hpos (Nat.not_lt_zero pos)⟩
    refine ⟨m', (exec_freshSink hi { s with outMem := m }).symm.trans hexec, fun _ hs hm _ => ?_⟩
    exact (hagree ⟨hs, hm⟩).2.2
  · obtain ⟨m', hexec, -⟩ := exec_with_outMem (W := False) (m := m) h fun hW => hW.elim
    exact ⟨m', hexec, fun hi' => absurd hi' hi⟩

/-- Every command keeps OUT canonical: the run agrees with itself on it. -/
theorem exec_outMem_wf (h : exec i s = .next t) (hwf : s.outMem.wf = true) : t.outMem.wf = true := by
  let canonical : SinkRel :=
    { rel := fun _ a _ => a.wf = true, append := Memory.write_wf, fresh := id, spoiled := fun _ bs => Memory.ofBytes_wf bs }
  have hself : Covered canonical False s s :=
    ⟨⟨s.memories, rfl⟩, fun _ _ => rfl, hwf, fun _ => rfl, fun _ _ => rfl, fun _ _ => rfl, fun _ _ => rfl⟩
  obtain ⟨t1, t2, ht1, -, hend⟩ := hself.exec i
  obtain rfl : t = t1 := Host.Outcome.next.inj (h.symm.trans ht1)
  exact hend.sink

/-! ### Tables that no valid bit covers (R57, R61, R331) -/

/-- Two lists with the same first `n` entries. -/
theorem take_eq_take_iff {α : Type} {l l' : List α} {n : Nat} :
    l.take n = l'.take n ↔ ∀ k, k < n → l[k]? = l'[k]? := by
  rw [List.ext_getElem?_iff]
  refine forall_congr' fun k => ?_
  by_cases hk : k < n
  · simp [List.getElem?_take_of_lt hk, hk]
  · simp [hk]

/-- Two states are alike exactly when they agree on what the valid bits cover and on IN and OUT. -/
theorem alike_iff_covered : s.Alike t ↔ Covered .same False s t ∧ t.inMem = s.inMem := by
  have halphabet : (∀ M, t = s.withMemories M → (s.alphabet = t.alphabet ↔
      ∀ k, k < s.tlen.toNat → t.alpha[k]? = s.alpha[k]?)) := by
    rintro M rfl
    simp only [State.alphabet, take_eq_take_iff, Vector.getElem?_toList, State.withMemories, eq_comm]
  constructor
  · rintro ⟨heq, hfreq, halpha, htree⟩
    have hM : t = s.withMemories t.memories := by
      rw [← heq]
      rfl
    have hin : t.inMem = s.inMem := by rw [← heq]
    refine ⟨⟨⟨_, hM⟩, fun pos _ => by rw [hin], show t.outMem = s.outMem by rw [← heq], ?_, ?_, ?_, ?_⟩, hin⟩
    · exact fun h => (hfreq (h.resolve_left id)).symm
    · exact fun k hk => (halphabet _ hM).mp (halpha (hk.resolve_left id).1) k (hk.resolve_left id).2
    · intro k hk
      obtain ⟨hvalid, hk⟩ := hk.resolve_left id
      have hn : t.ncount = s.ncount := by rw [← heq]
      have hnodes := (htree hvalid).1
      rw [hn, take_eq_take_iff] at hnodes
      simpa only [Vector.getElem?_toList] using (hnodes k hk).symm
    · intro k hk
      obtain ⟨hvalid, hk⟩ := hk.resolve_left id
      have hn : t.leafcount = s.leafcount := by rw [← heq]
      have hleaves := (htree hvalid).2
      rw [hn, take_eq_take_iff] at hleaves
      simpa only [Vector.getElem?_toList] using (hleaves k hk).symm
  · rintro ⟨⟨⟨M, rfl⟩, -, hsink, hfreq, halpha, hnode, hleaf⟩, hin⟩
    refine ⟨?_, fun h => (hfreq (.inr h)).symm,
      fun h => (halphabet M rfl).mpr fun k hk => halpha k (.inr ⟨h, hk⟩), fun h => ⟨?_, ?_⟩⟩
    · have hin : M.inMem = s.inMem := hin
      have hout : M.outMem = s.outMem := hsink
      simp only [State.withMemories, hin, hout]
    · refine take_eq_take_iff.mpr fun k hk => ?_
      simpa only [Vector.getElem?_toList] using (hnode k (.inr ⟨h, hk⟩)).symm
    · refine take_eq_take_iff.mpr fun k hk => ?_
      simpa only [Vector.getElem?_toList] using (hleaf k (.inr ⟨h, hk⟩)).symm

/-- Settles O56: what the valid bits cover is all that a command reads of the tables. -/
theorem uncoveredTablesAreNeverTold : Obligations.UncoveredTablesAreNeverTold := by
  intro i s t h
  obtain ⟨hcovered, hin⟩ := alike_iff_covered.mp h
  obtain ⟨s', t', hs', ht', hend⟩ := hcovered.exec i
  refine ⟨s', t', hs', ht', alike_iff_covered.mpr ⟨hend, ?_⟩⟩
  rw [exec_inMem hs', exec_inMem ht', hin]

end Sys2Proof.Machine
end

section
/-! SUPPORT. What every step keeps (R31, R34, R35, R57, R301): the effects of a host action, the coherent record, the
canonical memories and the idle core, and the validity invariants. -/

namespace Sys2Proof.Machine

variable {s t : State} {i : Instr} {a : HostAction} {rest : List HostAction}

/-! ### What a step can do (R340) -/

/-- Everything that one action of the host can make of the state. -/
inductive Effect (s : State) : State → Prop
  /-- a command -/
  | command {t : State} (i : Instr) (h : exec i s = .next t) : Effect s t
  /-- a word that is no command -/
  | illegal : Effect s ((prologue s).finish ErrKind.illegalCommand.code)
  /-- a write of SRCLEN -/
  | srclen (v : Word) : Effect s { s with srclen := v }
  /-- a write of IN -/
  | writeIn (pos : Nat) (v : Byte) : Effect s { s with inMem := Memory.write s.inMem pos v }
  /-- a read, or a write without effect: what the host saw and how many free values were drawn -/
  | seen (data : Word) (draws : Nat) : Effect s { s with readData := data, draws := draws }
  /-- a choice of I/O outcomes -/
  | chooseIo (failures : List Bool) : Effect s { s with ioOutcomes := failures }
  /-- a power-on reset -/
  | powerOn : Effect s (powerOn s)

theorem Effect.refl (s : State) : Effect s s := .seen s.readData s.draws

theorem issueCommand_effect {w : Word} (h : issueCommand w s = .next t) : Effect s t := by
  unfold issueCommand at h
  split_ifs at h
  · cases h; exact .refl s
  · split at h
    · exact .command _ h
    · cases h; exact .illegal

theorem writeWindowAt_effect {off : Nat} {v : Word} (h : writeWindowAt off v s = .next t) : Effect s t := by
  unfold writeWindowAt at h
  split_ifs at h
  · exact issueCommand_effect h
  · cases h; exact .srclen v
  · cases h; exact .refl s

/-- An access of the window that answers a next state got to its offset. -/
theorem accessWindow_eq_next {width : AccessWidth} {addr : Nat} {access : Nat → Host.Outcome State Fault Refusal}
    (h : accessWindow width addr s access = .next t) : ∃ off, access off = .next t := by
  unfold accessWindow at h
  split at h
  · cases h
  · split_ifs at h
    exact ⟨_, h⟩

theorem perform_effect (h : perform a s = .next t) : Effect s t := by
  cases a with
  | readWindow width addr =>
    obtain ⟨off, hread⟩ := accessWindow_eq_next h
    cases hread
    exact .seen _ s.draws
  | writeWindow width addr v =>
    obtain ⟨off, hwrite⟩ := accessWindow_eq_next h
    exact writeWindowAt_effect hwrite
  | writeIn pos v =>
    unfold perform writeInAt at h
    split_ifs at h
    cases h
    exact .writeIn pos.toNat v
  | readOut pos =>
    rw [perform, readOutAt] at h
    by_cases hbusy : s.status.busy = true
    · rw [if_pos hbusy] at h; cases h
    · rw [if_neg hbusy] at h
      split_ifs at h
      · cases h; exact .seen _ s.draws
      · cases h; exact .seen _ _
  | chooseIo failures => cases h; exact .chooseIo failures
  | powerOnReset => cases h; exact .powerOn

/-- A step takes actions off the host's list and has the effect of one of them, or none. -/
theorem step_effect (h : step s = .next t) : ∃ rest, Effect { s with hostActions := rest } t := by
  cases hactions : s.hostActions with
  | nil =>
    rw [step_of_no_action hactions] at h
    cases h
    exact ⟨s.hostActions, .refl s⟩
  | cons a rest =>
    rw [step_of_action hactions] at h
    exact ⟨rest, perform_effect h⟩

/-! ### The coherent record (R31, R34, R35, R301) -/

/-- The code that a command records is 0 or one of R301. -/
theorem exec_errcode_listed (h : exec i s = .next t) : t.errcode = 0 ∨ ∃ e : ErrKind, t.errcode = e.code := by
  rw [← exec_eq_next_iff.mp h, epilogue_errcode]
  cases i.body (prologue s) with
  | ok u s => exact .inl rfl
  | raise e s => exact .inr ⟨e, rfl⟩

/-- The record that an epilogue leaves is coherent, if it sets STICKY with ERR. -/
theorem coherent_of_record (hidle : t.status.busy = false) (hdone : t.status.done = true)
    (herr : t.status.err = (t.errcode != 0)) (hsticky : t.errcode ≠ 0 → t.status.sticky = true)
    (hlisted : t.errcode = 0 ∨ ∃ e : ErrKind, t.errcode = e.code) (hin : t.inMem.wf = true)
    (hout : t.outMem.wf = true) : t.Coherent where
  idle := hidle
  inCanonical := hin
  outCanonical := hout
  errIff := herr
  errSticky h := hsticky (by simpa [herr] using h)
  errDone _ := hdone
  errListed := hlisted

/-- A power-on reset leaves a coherent record, with any canonical memories. -/
theorem coherent_of_reset (hstatus : t.status = .reset) (hcode : t.errcode = 0) (hin : t.inMem.wf = true)
    (hout : t.outMem.wf = true) : t.Coherent where
  idle := by rw [hstatus]; rfl
  inCanonical := hin
  outCanonical := hout
  errIff := by rw [hstatus, hcode]; rfl
  errSticky h := by rw [hstatus] at h; cases h
  errDone h := by rw [hstatus] at h; cases h
  errListed := .inl hcode

theorem State.Coherent.exec (hs : s.Coherent) (h : exec i s = .next t) : t.Coherent := by
  obtain ⟨t', ht', hidle, hdone, herr, hclear, hsticky⟩ := commandCycleRecordsTheEnd i s
  obtain rfl : t = t' := Host.Outcome.next.inj (h.symm.trans ht')
  refine coherent_of_record hidle hdone herr (fun hcode => ?_) (exec_errcode_listed h)
    (exec_inMem h ▸ hs.inCanonical) (exec_outMem_wf h hs.outCanonical)
  by_cases hi : i = .clear
  · exact absurd (hclear hi).1 hcode
  · rw [hsticky hi, Bool.or_eq_true, bne_iff_ne]
    exact .inr hcode

theorem State.Coherent.effect (hs : s.Coherent) (h : Effect s t) : t.Coherent := by
  cases h with
  | command i h => exact hs.exec h
  | illegal =>
    exact coherent_of_record rfl rfl rfl (fun _ => Bool.or_true _) (.inr ⟨.illegalCommand, rfl⟩) hs.inCanonical
      hs.outCanonical
  | srclen v => exact { hs with }
  | writeIn pos v => exact { hs with inCanonical := Memory.write_wf hs.inCanonical }
  | seen data draws => exact { hs with }
  | chooseIo failures => exact { hs with }
  | powerOn =>
    exact coherent_of_reset rfl rfl hs.inCanonical hs.outCanonical

/-- Settles O57: every effect of a host action keeps the record coherent. -/
theorem stepKeepsCoherence : Obligations.StepKeepsCoherence := by
  intro s t hs h
  obtain ⟨rest, heffect⟩ := step_effect h
  exact State.Coherent.effect (s := { s with hostActions := rest }) { hs with } heffect

/-! ### The validity invariants (R57) -/

/-- Clause (a) for FREQ and INLEN alone: the counts of some source. -/
theorem State.FreqCounts.of_source (hascii : isAscii s.sourceBytes = true) (hlen : s.srclen.toNat ≤ 2147483647)
    (hinlen : t.inlen = s.srclen) (hfreq : t.freq = Spec.scanCounts s.sourceBytes) : t.FreqCounts :=
  ⟨s.sourceBytes, hascii, by rw [State.sourceBytes_length, hinlen], by rw [State.sourceBytes_length]; exact hlen, hfreq⟩

/-- Without a valid bit there is nothing to hold. -/
theorem State.Valid.of_status_clear (hfreq : s.status.freqValid = false) (halpha : s.status.alphaValid = false)
    (hcfg : s.status.cfgValid = false) (htree : s.status.treeValid = false) : s.Valid where
  freqCounts h := absurd h (by simp [hfreq])
  alphaRange h := absurd h (by simp [halpha])
  alphaDedup h := absurd h (by simp [hfreq])
  treeBits h := absurd h (by simp [htree])
  treeTables h := absurd h (by simp [htree])
  cfgTable h := absurd h (by simp [hcfg])

/-- The fields that the invariants speak of. -/
def State.validPart (s : State) : State :=
  { State.reset with
    freq := s.freq, inlen := s.inlen, alpha := s.alpha, tlen := s.tlen, node := s.node, leaf := s.leaf, root := s.root
    ncount := s.ncount, leafcount := s.leafcount, cw := s.cw, cpb := s.cpb, bpb := s.bpb, params := s.params
    status := { Status.reset with
      freqValid := s.status.freqValid, alphaValid := s.status.alphaValid, cfgValid := s.status.cfgValid
      treeValid := s.status.treeValid } }

theorem State.valid_validPart : s.validPart.Valid ↔ s.Valid :=
  ⟨fun h => ⟨h.freqCounts, h.alphaRange, h.alphaDedup, h.treeBits, h.treeTables, h.cfgTable⟩,
    fun h => ⟨h.freqCounts, h.alphaRange, h.alphaDedup, h.treeBits, h.treeTables, h.cfgTable⟩⟩

/-- What leaves those fields alone keeps the invariants. -/
theorem State.Valid.of_validPart (hs : s.Valid) (h : t.validPart = s.validPart) : t.Valid :=
  State.valid_validPart.mp (h ▸ State.valid_validPart.mpr hs)

/-- Configuring a width of the table keeps the invariants (R57 (e), R195). -/
theorem State.Valid.configure {w : Nat} (hs : s.Valid) (hw : 1 ≤ w) (hw7 : w ≤ 7) : (s.configure w).Valid where
  freqCounts := hs.freqCounts
  alphaRange := hs.alphaRange
  alphaDedup := hs.alphaDedup
  treeBits := hs.treeBits
  treeTables := hs.treeTables
  cfgTable _ := by
    obtain ⟨hcw, hcpb, hbpb⟩ := s.configure_toNat hw hw7
    exact ⟨by rw [hcw]; exact hw, by rw [hcw]; exact hcpb, by rw [hcw]; exact hbpb⟩

/-- What a SCAN that wrote anything makes of the valid bits (R211). -/
theorem bodyScan_validBits (s : State) :
    (bodyScan s).state = s ∨ (bodyScan s).state.status.alphaValid = false ∧
      (bodyScan s).state.status.treeValid = false ∧
      ((bodyScan s).state.status.freqValid = true → ∃ t, bodyScan s = .ok () t) := by
  unfold bodyScan
  split_ifs
  · exact .inl rfl
  · refine .inr ?_
    obtain ⟨f, io, hframe⟩ := scanLoop_frame s.srclen.toNat 0
      { s with status := s.status.scanStart, freq := Vector.replicate 128 0 }
    cases hloop : scanLoop s.srclen.toNat 0 { s with status := s.status.scanStart, freq := Vector.replicate 128 0 } with
    | ok u s1 =>
      obtain rfl : s1 = _ := by simpa only [hloop, Res.state_ok] using hframe
      exact ⟨rfl, rfl, fun _ => ⟨_, rfl⟩⟩
    | raise e s1 =>
      obtain rfl : s1 = _ := by simpa only [hloop, Res.state_raise] using hframe
      exact ⟨rfl, rfl, fun h => (nomatch h)⟩

/-- SCAN keeps the invariants: (a) by its count, the others because it drops their valid bits (R211). -/
theorem State.Valid.bodyScan (hs : s.Valid) : (bodyScan s).state.Valid := by
  rcases bodyScan_validBits s with hsame | ⟨halpha, htree, hfreq⟩
  · rw [hsame]; exact hs
  · have hcfg : (Machine.bodyScan s).state.CfgTable := by
      obtain ⟨f, len, io, fv, av, tv, hframe⟩ := bodyScan_writes s
      rw [hframe]
      exact hs.cfgTable
    refine ⟨fun h => ?_, fun h => absurd h (by simp [halpha]), fun _ h => absurd h (by simp [halpha]),
      fun h => absurd h (by simp [htree]), fun h => absurd h (by simp [htree]), hcfg⟩
    obtain ⟨t, hok⟩ := hfreq h
    obtain ⟨hascii, hlen, hcounts, hinlen, -⟩ := bodyScan_of_ok hok
    rw [hok]
    exact .of_source hascii hlen hinlen hcounts

/-- DEDUP of a FREQ without a count (R213). -/
theorem bodyDedup_of_nil (hfreq : s.status.freqValid = true) (hnil : dedupList s.freq = []) :
    bodyDedup s = .raise .emptyInput (s.setStatus s.status.dedupStart) := by
  simp [Machine.bodyDedup, hfreq, hnil, writeFrom, State.setStatus]

/-- DEDUP keeps the invariants: (b) and (c) by the list it writes (R213). -/
theorem State.Valid.bodyDedup (hs : s.Valid) : (bodyDedup s).state.Valid := by
  by_cases hfreq : s.status.freqValid = true
  · by_cases hnil : dedupList s.freq = []
    · rw [bodyDedup_of_nil hfreq hnil]
      exact ⟨hs.freqCounts, fun h => (nomatch h), fun _ h => (nomatch h), fun h => (nomatch h), fun h => (nomatch h),
        hs.cfgTable⟩
    · have hok := bodyDedup_of_ne_nil hfreq hnil
      obtain ⟨halphabet, hpos, htlen, -⟩ := bodyDedup_of_ok hok
      rw [hok]
      exact ⟨hs.freqCounts, fun _ => ⟨hpos, htlen ▸ dedupList_length_le _⟩, fun _ _ => halphabet, fun h => (nomatch h),
        fun h => (nomatch h), hs.cfgTable⟩
  · have hraise : Machine.bodyDedup s = .raise .stateError s := by simp [Machine.bodyDedup, hfreq]
    rw [hraise]
    exact hs

/-- The tree that TREE stores is the tree of FREQ and ALPHA (R57 (d)). -/
theorem State.withTree_treeTables (hpos : 1 ≤ s.tlen.toNat) (hn : s.tlen.toNat ≤ 128) : s.withTree.TreeTables := by
  have hlength : s.alphabet.length = s.tlen.toNat := State.alphabet_length hn
  rw [← hlength] at hpos hn
  have hleaves : (treeLeaves (buildTree s.freq s.alphabet)).length = s.alphabet.length :=
    (treeLeaves_perm s.freq hpos hn).length_eq
  refine ⟨writeFrom_take _ _ ?_, writeFrom_take _ _ (hleaves ▸ hn), rfl, rfl, ?_⟩
  · have := buildTree_length s.freq hpos
    show (buildTree s.freq s.alphabet).1.length ≤ 255
    omega
  · show s.tlen = BitVec.ofNat 8 (treeLeaves (buildTree s.freq s.alphabet)).length
    rw [hleaves, hlength, BitVec.ofNat_toNat, BitVec.setWidth_eq]

/-- TREE keeps the invariants: (d) by the tree it stores (R245). -/
theorem State.Valid.bodyTree (hs : s.Valid) : (bodyTree s).state.Valid := by
  by_cases hvalid : s.status.alphaValid = true ∧ s.status.freqValid = true
  · obtain ⟨halpha, hfreq⟩ := hvalid
    obtain ⟨hpos, hn⟩ := hs.alphaRange halpha
    rw [bodyTree_of_alphabet halpha hfreq hpos hn]
    exact ⟨hs.freqCounts, hs.alphaRange, hs.alphaDedup, fun _ => ⟨halpha, hfreq⟩,
      fun _ => State.withTree_treeTables hpos hn, hs.cfgTable⟩
  · have hraise : Machine.bodyTree s = .raise .stateError s := if_pos (by simpa [imp_iff_not_or] using hvalid)
    rw [hraise]
    exact hs

theorem State.Valid.encodeMain (hs : s.Valid) : (encodeMain s).state.Valid := by
  refine encodeMain_keeps s (hs.of_validPart rfl) (fun u hu => hu.bodyScan) (fun u hu => hu.bodyDedup)
    (fun u hu => hu.bodyTree) (fun u hu => ?_) (fun u hu => ?_)
  · obtain ⟨hw, hw7⟩ := selectWidth_bounds u.tlen.toNat
    rw [encodeGain_frame]
    exact (hu.configure hw hw7).of_validPart rfl
  · obtain ⟨b, em, m, len, io, hframe⟩ := encodeOutput_frame u
    rw [hframe]
    exact hu.of_validPart rfl

/-- Taking a header keeps the invariants while FREQ and the tree are not valid (R272 to R275). -/
theorem State.Valid.decodeHeader (hs : s.Valid) (hfreq : s.status.freqValid = false)
    (htree : s.status.treeValid = false) (h : List Byte) : (decodeHeader h s).state.Valid := by
  rw [decodeHeader_eq]
  split_ifs with hfields hcut
  · exact hs
  · exact hs
  · simp only [Bool.not_eq_true', Bool.not_eq_false] at hfields
    obtain ⟨-, ⟨htable, htable'⟩, hwidth, hwidth'⟩ := headerAccepted_ranges hfields
    obtain ⟨a, io, hframe⟩ := readAlphabet_frame (hdrWord s.params.hdrEndian (h.drop 4)).toNat 16 0 s
    have hread : State.Valid { s with alpha := a, ioOutcomes := io } :=
      ⟨fun h => absurd h (by simp [hfreq]), hs.alphaRange, fun h => absurd h (by simp [hfreq]),
        fun h => absurd h (by simp [htree]), fun h => absurd h (by simp [htree]), hs.cfgTable⟩
    cases hloop : readAlphabet (hdrWord s.params.hdrEndian (h.drop 4)).toNat 16 0 s with
    | raise e s1 =>
      rw [hloop] at hframe
      exact hframe ▸ hread
    | ok u s1 =>
      obtain rfl : s1 = _ := by simpa only [hloop, Res.state_ok] using hframe
      refine State.Valid.configure ?_ hwidth hwidth'
      refine ⟨fun h => absurd h (by simp [hfreq]), fun _ => ?_, fun h => absurd h (by simp [hfreq]),
        fun h => absurd h (by simp [htree]), fun h => absurd h (by simp [htree]), hs.cfgTable⟩
      have htlen : ((hdrWord s.params.hdrEndian (h.drop 4)).setWidth 8).toNat =
          (hdrWord s.params.hdrEndian (h.drop 4)).toNat :=
        (BitVec.toNat_setWidth ..).trans (Nat.mod_eq_of_lt (by omega))
      show 1 ≤ ((hdrWord s.params.hdrEndian (h.drop 4)).setWidth 8).toNat ∧ _
      rw [htlen]
      exact ⟨htable, htable'⟩

theorem State.Valid.decodeMain (s : State) : (decodeMain s).state.Valid := by
  refine (decodeMain_keeps (P := fun u => u.Valid ∧ u.status.freqValid = false ∧ u.status.treeValid = false) s
    ⟨.of_status_clear rfl rfl rfl rfl, rfl, rfl⟩ (fun u n pos acc hu => ?_) (fun u h hu => ?_) (fun u hu => ?_)).1
  · obtain ⟨io, hframe⟩ := readBytes_frame n pos acc u
    rw [hframe]
    exact ⟨hu.1.of_validPart rfl, hu.2⟩
  · refine ⟨hu.1.decodeHeader hu.2.1 hu.2.2 h, ?_⟩
    obtain ⟨a, io, len, n, od, cw, cp, bp, av, cv, hframe⟩ := decodeHeader_writes h u
    rw [hframe]
    exact hu.2
  · obtain ⟨b, em, m, len, io, hframe⟩ := decodeData_writes u
    rw [hframe]
    exact ⟨hu.1.of_validPart rfl, hu.2⟩

/-- The close and what follows it leave the fields of the invariants alone. -/
theorem State.Valid.sink {r : Res Unit} (hr : r.state.Valid) (f : Unit → State → Res Unit)
    (hf : ∀ u s, (f u s).state.validPart = s.validPart) : (spoilSink ((closeSink r).andThen f)).state.Valid := by
  have hthen : ((closeSink r).andThen f).state.Valid := by
    refine Res.andThen_keeps ?_ fun u s1 _ h1 => h1.of_validPart (hf u s1)
    rw [closeSink_state]
    exact hr.of_validPart rfl
  obtain ⟨m, d, hframe⟩ := spoilSink_frame ((closeSink r).andThen f)
  rw [hframe]
  exact hthen.of_validPart rfl

/-- Every body keeps the invariants. -/
theorem State.Valid.body (hs : s.Valid) (i : Instr) : (i.body s).state.Valid := by
  cases i with
  | clear => exact .of_status_clear rfl rfl rfl rfl
  | setcw a =>
    simp only [Instr.body, bodySetcw]
    split_ifs with hw
    · exact hs
    · simp only [isCodeWidth, Bool.not_eq_true', Bool.not_eq_false, Bool.and_eq_true, decide_eq_true_eq] at hw
      exact hs.configure hw.1 hw.2
  | scan => exact hs.bodyScan
  | dedup => exact hs.bodyDedup
  | tree => exact hs.bodyTree
  | encode => exact hs.encodeMain.sink _ fun _ _ => rfl
  | decode =>
    refine (State.Valid.decodeMain s).sink _ fun _ _ => ?_
    split_ifs <;> rfl
  | _ => exact hs.of_validPart (body_keeps State.validPart fun _ => rfl)

theorem State.Valid.exec (hs : s.Valid) (h : exec i s = .next t) : t.Valid := by
  have hprologue : (prologue s).Valid := hs.of_validPart rfl
  rw [← exec_eq_next_iff.mp h, epilogue_eq_finish]
  exact (hprologue.body i).of_validPart rfl

theorem State.Valid.effect (hs : s.Valid) (h : Effect s t) : t.Valid := by
  cases h with
  | command i h => exact hs.exec h
  | illegal => exact hs.of_validPart rfl
  | srclen v => exact hs.of_validPart rfl
  | writeIn pos v => exact hs.of_validPart rfl
  | seen data draws => exact hs.of_validPart rfl
  | chooseIo failures => exact hs.of_validPart rfl
  | powerOn => exact .of_status_clear rfl rfl rfl rfl

/-- Settles O58: every effect of a host action keeps the validity invariants. -/
theorem stepKeepsValidity : Obligations.StepKeepsValidity := by
  intro s t hs h
  obtain ⟨rest, heffect⟩ := step_effect h
  exact State.Valid.effect (s := { s with hostActions := rest }) (hs.of_validPart rfl) heffect

/-! ### Reachable states (R61, R339) -/

/-- Settles O59: no valid bit is set, and the memories list nothing. -/
theorem resetMeetsTheInvariants : Obligations.ResetMeetsTheInvariants :=
  ⟨coherent_of_reset rfl rfl rfl rfl, .of_status_clear rfl rfl rfl rfl⟩

/-- An idle core refuses nothing because of BUSY. -/
theorem perform_ne_busy (hidle : s.status.busy = false) : perform a s ≠ .refused .hostWhileBusy := by
  have hcommand : ∀ w, issueCommand w s ≠ .refused .hostWhileBusy := by
    intro w
    rw [issueCommand, if_neg (by simp [hidle])]
    cases decode w with
    | ok i => simp [exec_eq]
    | error e => simp [illegalCommand_eq, Spec.abort]
  have haccess {width : AccessWidth} {addr : Nat} {access : Nat → Host.Outcome State Fault Refusal}
      (h : ∀ off, access off ≠ .refused .hostWhileBusy) :
      accessWindow width addr s access ≠ .refused .hostWhileBusy := by
    unfold accessWindow
    split
    · simp
    · split_ifs
      · exact h _
      · simp
  cases a with
  | readWindow width addr => exact haccess fun off => by simp
  | writeWindow width addr v =>
    refine haccess fun off => ?_
    unfold writeWindowAt
    split_ifs with hcmd hsrclen hbusy
    · exact hcommand v
    · simp [hidle] at hbusy
    · simp
    · simp
  | writeIn pos v => simp [perform, writeInAt, hidle]
  | readOut pos =>
    rw [perform, readOutAt, if_neg (by simp [hidle])]
    split_ifs <;> simp
  | chooseIo failures => simp [perform]
  | powerOnReset => simp [perform]

theorem step_ne_busy (hidle : s.status.busy = false) : step s ≠ .refused .hostWhileBusy := by
  cases hactions : s.hostActions with
  | nil => simp [step_of_no_action hactions]
  | cons a rest =>
    rw [step_of_action hactions]
    exact perform_ne_busy hidle

/-- Every run keeps both invariants. -/
theorem Reachable.coherent_valid (h : Reachable s) : s.Coherent ∧ s.Valid := by
  induction h with
  | reset p freq alpha node leaf inMem outMem io host hin hout =>
    exact ⟨coherent_of_reset rfl rfl hin hout, .of_status_clear rfl rfl rfl rfl⟩
  | step _ hstep ih => exact ⟨stepKeepsCoherence _ _ ih.1 hstep, stepKeepsValidity _ _ ih.2 hstep⟩

/-- Settles O60: the invariants hold along every run, so the core is idle at every step. -/
theorem reachableStatesMeetTheInvariants : Obligations.ReachableStatesMeetTheInvariants := fun _ h =>
  ⟨h.coherent_valid.1, h.coherent_valid.2, step_ne_busy h.coherent_valid.1.idle⟩

end Sys2Proof.Machine
end

section
/-! SUPPORT. The frequency at the root of a tree (R246), and the default outputDataLength (R265). -/

namespace Sys2Proof.Machine

variable {f : Vector Word 128} {alphabet : List Byte} {nodes : List Node} {live : List Nat} {nd : Node} {x y z : Nat}
  {prm : Params} {w : Nat}

/-! ### The sum of the live frequencies (R240, R246) -/

/-- The frequency of a node by its number. -/
def nodeFreq (nodes : List Node) (z : Nat) : Word := (nodes[z]?.getD default).freq

theorem nodeFreq_append (hz : z < nodes.length) : nodeFreq (nodes ++ [nd]) z = nodeFreq nodes z := by
  rw [nodeFreq, List.getElem?_append_left hz, nodeFreq]

/-- The merge of two nodes weighs what they weigh together. -/
theorem nodeFreq_mergeNode (nodes : List Node) (x y : Nat) :
    nodeFreq (nodes ++ [mergeNode nodes x y]) nodes.length = nodeFreq nodes x + nodeFreq nodes y := by
  rw [nodeFreq, List.getElem?_concat_length]
  rfl

/-- The live nodes weigh, together, what the Alphabet's entries weigh. -/
theorem Built.sum_live (h : Built f alphabet nodes live) :
    (live.map (nodeFreq nodes)).sum = (alphabet.map fun c => f[c.toNat]?.getD 0).sum := by
  induction h with
  | leaves =>
    refine congrArg List.sum (List.ext_getElem (by simp) fun k hk hk' => ?_)
    simp only [List.length_map] at hk'
    rw [List.getElem_map, List.getElem_map, List.getElem_range, nodeFreq, Built.leaves.getElem?_leaf hk']
    rfl
  | @merge nodes live x y built hx hy ih =>
    have hymem : y ∈ live := List.mem_of_mem_erase hy.1
    have hkeep : ∀ z ∈ (live.erase x).erase y,
        nodeFreq (nodes ++ [mergeNode nodes x y]) z = nodeFreq nodes z := fun z hz =>
      nodeFreq_append (built.lt_length (List.mem_of_mem_erase (List.mem_of_mem_erase hz)))
    have hlive : live.Perm (x :: y :: (live.erase x).erase y) :=
      (List.perm_cons_erase hx.1).trans ((List.perm_cons_erase hy.1).cons x)
    rw [← ih, (hlive.map (nodeFreq nodes)).sum_eq, List.map_append, List.sum_append, List.map_singleton,
      List.sum_singleton, nodeFreq_mergeNode, List.map_congr_left hkeep, List.map_cons, List.map_cons, List.sum_cons,
      List.sum_cons]
    ring

/-- The root of a build weighs what the Alphabet's entries weigh. -/
theorem buildTree_rootFreq (f : Vector Word 128) (hpos : 1 ≤ alphabet.length) :
    nodeFreq (buildTree f alphabet).1 (treeRoot (buildTree f alphabet)) =
      (alphabet.map fun c => f[c.toNat]?.getD 0).sum := by
  rw [← (built_buildTree f hpos).sum_live, treeRoot_buildTree f hpos, List.map_singleton, List.sum_singleton]

/-! ### The sum of the counts (R210, R216) -/

/-- Terms that are 0 can be left out of a sum. -/
theorem sum_map_filter_ne_zero {α : Type} (g : α → Word) (l : List α) :
    ((l.filter fun a => g a != 0).map g).sum = (l.map g).sum := by
  induction l with
  | nil => rfl
  | cons a l ih =>
    by_cases ha : g a = 0
    · rw [List.filter_cons_of_neg (by simp [ha]), ih, List.map_cons, List.sum_cons, ha, zero_add]
    · rw [List.filter_cons_of_pos (by simpa using ha), List.map_cons, List.sum_cons, ih, List.map_cons, List.sum_cons]

/-- The sum of words is the sum of their numbers, as a word. -/
theorem sum_eq_ofNat_sum_toNat (l : List Word) : l.sum = BitVec.ofNat 32 (l.map BitVec.toNat).sum := by
  induction l with
  | nil => rfl
  | cons v l ih =>
    rw [List.sum_cons, ih, List.map_cons, List.sum_cons, BitVec.ofNat_add, BitVec.ofNat_toNat, BitVec.setWidth_eq]

/-- The code points that DEDUP lists have all the counts. -/
theorem sum_dedupList (f : Vector Word 128) :
    ((dedupList f).map fun c => f[c.toNat]?.getD 0).sum = f.toList.sum := by
  have hentries : ((List.range 128).map fun c => f[c]?.getD 0) = f.toList :=
    List.ext_getElem (by simp) fun k hk hk' => by
      have hk : k < 128 := by simpa using hk'
      simp [hk]
  rw [← hentries, ← sum_map_filter_ne_zero (fun c => f[c]?.getD 0), ← dedupList_map_toNat, List.map_map]
  rfl

/-- FREQ of a valid scan holds INLEN characters. -/
theorem State.FreqCounts.sum_freq {s : State} (h : s.FreqCounts) : s.freq.toList.sum = s.inlen := by
  obtain ⟨text, hascii, hlen, hmax, hfreq⟩ := h
  rw [sum_eq_ofNat_sum_toNat, hfreq, scanCounts_sum hascii (by omega), hlen, BitVec.ofNat_toNat, BitVec.setWidth_eq]

/-- Settles O41: the root weighs what the leaves weigh, and each leaf is visited once. -/
theorem treeLeavesAreTheAlphabet : Obligations.TreeLeavesAreTheAlphabet := by
  intro s hvalid halpha hfreq
  obtain ⟨hpos, hn⟩ := hvalid.alphaRange halpha
  have hlength : s.alphabet.length = s.tlen.toNat := State.alphabet_length hn
  have hpos' : 1 ≤ s.alphabet.length := hlength ▸ hpos
  have hleaves := treeLeaves_perm s.freq hpos' (hlength ▸ hn)
  refine ⟨by rw [buildTree_length s.freq hpos', hlength], ?_, hleaves, hleaves.length_eq.trans hlength, fun u hu => ?_⟩
  · rw [← (hvalid.freqCounts hfreq).sum_freq, ← sum_dedupList, ← hvalid.alphaDedup hfreq halpha]
    exact buildTree_rootFreq s.freq hpos'
  · have hbody := bodyTree_of_alphabet (s := prologue s) halpha hfreq hpos hn
    rw [exec_tree, runCommand_eq, hbody] at hu
    cases hu
    exact ⟨rfl, show (0 : BitVec 8) ≠ 0x02#8 by decide⟩

/-! ### The default outputDataLength (R265) -/

/-- At width 7 with W7_BPB = 7 a block's fields fill its bytes as well. -/
theorem odlFormula_seven (len : Nat) : odlFormula 7 7 len = len / 8 * 7 + len % 8 := by
  rw [odlFormula, show 8 * 7 = 7 * 8 from rfl, Nat.mul_div_mul_left _ _ (by decide), Nat.mul_mod_mul_left,
    Nat.mul_div_cancel_left _ (by decide)]

/-- Settles O43: where the fields of a block fill its bytes the formula counts blocks and tail. -/
theorem odlIsThePackedLength : Obligations.OdlIsThePackedLength := by
  refine ⟨fun p w len hw hw7 hseven => ?_, by decide⟩
  rcases Nat.lt_or_eq_of_le hw7 with hlt | rfl
  · exact odlFormula_eq len hw (Nat.le_of_lt_succ hlt)
  · rw [geometry, hseven rfl]
    exact odlFormula_seven len

end Sys2Proof.Machine
end

section
/-! SUPPORT. I/O events (R90): the events of a part of a body in their order, what it ends with when the host fails none
of them, and how it ends when the host fails one. -/

namespace Sys2Proof.Machine

variable {α β : Type} {s t u : State} {io : List Bool} {ev ev' : List Bool} {r : Res α} {n k p pos : Nat}

/-! ### The host's choices -/

/-- The host fails none of the next `n` events. -/
def IoOk (io : List Bool) (n : Nat) : Prop := ∀ j, j < n → io[j]? ≠ some true

theorem IoOk.mono (h : IoOk io n) (hk : k ≤ n) : IoOk io k := fun j hj => h j (by omega)

theorem IoOk.zero (io : List Bool) : IoOk io 0 := fun _ hj => absurd hj (Nat.not_lt_zero _)

theorem ioOk_add : IoOk io (n + k) ↔ IoOk io n ∧ IoOk (io.drop n) k := by
  constructor
  · intro h
    exact ⟨h.mono (Nat.le_add_right n k), fun j hj => by rw [List.getElem?_drop]; exact h (n + j) (by omega)⟩
  · rintro ⟨hn, hk⟩ j hj
    by_cases hjn : j < n
    · exact hn j hjn
    · have := hk (j - n) (by omega)
      rwa [List.getElem?_drop, show n + (j - n) = j by omega] at this

theorem IoOk.headD (h : IoOk io (n + 1)) : io.headD false = false := by
  cases io with
  | nil => rfl
  | cons f rest => simpa using h 0 (Nat.succ_pos n)

theorem headD_of_getElem? (h : io[0]? = some true) : io.headD false = true := by
  cases io with
  | nil => simp at h
  | cons f rest => simpa using h

theorem ioOk_iff_all : IoOk io n ↔ (io.take n).all (fun f => !f) = true := by
  simp only [List.all_eq_true, List.mem_iff_getElem?, forall_exists_index, Bool.not_eq_true']
  constructor
  · intro h f j hj
    rw [List.getElem?_take] at hj
    split_ifs at hj with hjn
    exact Bool.eq_false_iff.mpr fun hf => h j hjn (hf ▸ hj)
  · intro h j hj hf
    exact absurd (h true j (by rw [List.getElem?_take_of_lt hj, hf])) (by decide)

/-- A host that fails nothing fails none of any number of events. -/
theorem State.noIoFailure.ioOk (h : s.noIoFailure = true) (n : Nat) : IoOk s.ioOutcomes n := by
  rw [ioOk_iff_all]
  exact List.all_eq_true.mpr fun f hf => List.all_eq_true.mp h f (List.mem_of_mem_take hf)

theorem ioOk_replicate (n m : Nat) (rest : List Bool) (h : n ≤ m) : IoOk (List.replicate m false ++ rest) n := by
  intro j hj
  rw [List.getElem?_append_left (by simp; omega), List.getElem?_replicate, if_pos (by omega)]
  decide

/-- Of any number of events the host fails a first one or none. -/
theorem ioOk_or_first_failure (io : List Bool) (n : Nat) : IoOk io n ∨ ∃ k, k < n ∧ IoOk io k ∧ io[k]? = some true := by
  induction n with
  | zero => exact .inl (.zero io)
  | succ n ih =>
    rcases ih with h | ⟨k, hk, hok, hfail⟩
    · by_cases hn : io[n]? = some true
      · exact .inr ⟨n, Nat.lt_succ_self n, h, hn⟩
      · refine .inl fun j hj => ?_
        rcases Nat.lt_succ_iff_lt_or_eq.mp hj with hj | rfl
        · exact h j hj
        · exact hn
    · exact .inr ⟨k, by omega, hok, hfail⟩

/-! ### A state with other choices of the host -/

def State.withIo (s : State) (io : List Bool) : State := { s with ioOutcomes := io }

def Res.withIo (io : List Bool) : Res α → Res α
  | .ok a s => .ok a (s.withIo io)
  | .raise e s => .raise e (s.withIo io)

@[simp] theorem State.withIo_ioOutcomes (s : State) (io : List Bool) : (s.withIo io).ioOutcomes = io := rfl
@[simp] theorem State.withIo_self (s : State) : s.withIo s.ioOutcomes = s := rfl
@[simp] theorem State.withIo_withIo (s : State) (io io' : List Bool) : (s.withIo io).withIo io' = s.withIo io' := rfl

/-! ### The events of a part of a body -/

/-- The part `f` of a body, begun in `s`, makes the events `ev`, true for an append, and ends with `r` if the host fails
none of them; if it fails one, the part ends there with IoFailure, the appends before that event done (R90, R312). -/
structure Traced (f : State → Res α) (s : State) (ev : List Bool) (r : Res α) : Prop where
  runs : ∀ io, IoOk io ev.length → f (s.withIo io) = r.withIo (io.drop ev.length)
  fails : ∀ io k, k < ev.length → IoOk io k → io[k]? = some true → ∃ u,
    f (s.withIo io) = .raise .ioFailure u ∧ u.outlen = s.outlen + BitVec.ofNat 32 (Spec.appendsIn ev k)
  appends : r.state.outlen = s.outlen + BitVec.ofNat 32 (ev.count true)

/-- A part without events. -/
theorem Traced.of_none {f : State → Res α} (h : ∀ io, f (s.withIo io) = r.withIo io)
    (hlen : r.state.outlen = s.outlen) : Traced f s [] r where
  runs io _ := h io
  fails _ _ hk := absurd hk (Nat.not_lt_zero _)
  appends := by rw [hlen]; simp

theorem Traced.ok (a : α) (s : State) : Traced (fun s => .ok a s) s [] (.ok a s) := .of_none (fun _ => rfl) rfl

theorem Traced.raise (e : ErrKind) (s : State) : Traced (α := α) (fun s => .raise e s) s [] (.raise e s) :=
  .of_none (fun _ => rfl) rfl

/-- A part that begins with writes which make no event and leave OUTLEN alone. -/
theorem Traced.of_eq {f g : State → Res α} (h : Traced g t ev r) (hfg : ∀ io, f (s.withIo io) = g (t.withIo io))
    (hlen : t.outlen = s.outlen) : Traced f s ev r where
  runs io hio := (hfg io).trans (h.runs io hio)
  fails io k hk hio hfail := by
    rw [hfg io, ← hlen]
    exact h.fails io k hk hio hfail
  appends := hlen ▸ h.appends

/-- The events of two parts, one after the other. -/
theorem Traced.andThen {f : State → Res α} {g : α → State → Res β} {a : α} {r : Res β} (hf : Traced f s ev (.ok a t))
    (hg : Traced (g a) t ev' r) : Traced (fun s => (f s).andThen g) s (ev ++ ev') r where
  runs io hio := by
    rw [List.length_append, ioOk_add] at hio
    rw [hf.runs io hio.1, Res.withIo, Res.andThen_ok, hg.runs _ hio.2, List.drop_drop, List.length_append]
  fails io k hk hio hfail := by
    by_cases hlt : k < ev.length
    · obtain ⟨u, hu, hlen⟩ := hf.fails io k hlt hio hfail
      refine ⟨u, by rw [hu, Res.andThen_raise], ?_⟩
      rw [hlen, Spec.appendsIn, Spec.appendsIn, List.take_append_of_le_length (Nat.le_of_lt hlt)]
    · obtain ⟨j, rfl⟩ := Nat.exists_eq_add_of_le (Nat.le_of_not_lt hlt)
      rw [ioOk_add] at hio
      rw [List.length_append] at hk
      obtain ⟨u, hu, hlen⟩ := hg.fails (io.drop ev.length) j (by omega) hio.2 (by rw [List.getElem?_drop, hfail])
      refine ⟨u, by rw [hf.runs io hio.1, Res.withIo, Res.andThen_ok, hu], ?_⟩
      have happends : t.outlen = s.outlen + BitVec.ofNat 32 (ev.count true) := hf.appends
      rw [hlen, happends, BitVec.add_assoc, ← BitVec.ofNat_add, Spec.appendsIn, Spec.appendsIn, List.take_append,
        List.take_of_length_le (l := ev) (by omega), Nat.add_sub_cancel_left, List.count_append]
  appends := by
    have happends : t.outlen = s.outlen + BitVec.ofNat 32 (ev.count true) := hf.appends
    rw [hg.appends, happends, BitVec.add_assoc, ← BitVec.ofNat_add, List.count_append]

/-- After a raise nothing more runs (R305). -/
theorem Traced.andThen_raise {f : State → Res α} {e : ErrKind} (hf : Traced f s ev (.raise e t))
    (g : α → State → Res β) : Traced (fun s => (f s).andThen g) s ev (.raise e t) where
  runs io hio := by rw [hf.runs io hio]; rfl
  fails io k hk hio hfail := by
    obtain ⟨u, hu, hlen⟩ := hf.fails io k hk hio hfail
    exact ⟨u, by rw [hu, Res.andThen_raise], hlen⟩
  appends := hf.appends

/-- However the host chooses, the part ends with `r` or with IoFailure. -/
theorem Traced.end_cases {f : State → Res α} (h : Traced f s ev r) (io : List Bool) :
    (∃ io', f (s.withIo io) = r.withIo io') ∨ ∃ u, f (s.withIo io) = .raise .ioFailure u := by
  rcases ioOk_or_first_failure io ev.length with hok | ⟨k, hk, hok, hfail⟩
  · exact .inl ⟨_, h.runs io hok⟩
  · obtain ⟨u, hu, -⟩ := h.fails io k hk hok hfail
    exact .inr ⟨u, hu⟩

/-! ### Single events -/

theorem readIn_traced (pos : Nat) (s : State) : Traced (readIn pos) s [false] (.ok (Memory.read s.inMem pos) s) where
  runs io hio := by
    rw [readIn_eq, State.withIo_ioOutcomes, IoOk.headD hio, if_neg (by decide), List.length_singleton, List.drop_one]
    rfl
  fails io k hk hio hfail := by
    obtain rfl : k = 0 := by simpa using hk
    refine ⟨_, by rw [readIn_eq, State.withIo_ioOutcomes, headD_of_getElem? hfail, if_pos rfl], ?_⟩
    simp [Spec.appendsIn, State.withIo]
  appends := by simp

/-- OUT and OUTLEN after an append (R13, R82). -/
def State.append (s : State) (bs : List Byte) : State :=
  { s with
    outMem := (sinkAfter (s.outMem, s.outlen) bs).1
    outlen := (sinkAfter (s.outMem, s.outlen) bs).2 }

theorem State.append_append (s : State) (bs cs : List Byte) : (s.append bs).append cs = s.append (bs ++ cs) := by
  simp only [State.append, sinkAfter_append, Prod.mk.eta]

theorem outByte_traced (b : Byte) (s : State) : Traced (outByte b) s [true] (.ok () (s.append [b])) where
  runs io hio := by
    rw [outByte_eq, State.withIo_ioOutcomes, IoOk.headD hio, if_neg (by decide), List.length_singleton, List.drop_one]
    rfl
  fails io k hk hio hfail := by
    obtain rfl : k = 0 := by simpa using hk
    refine ⟨_, by rw [outByte_eq, State.withIo_ioOutcomes, headD_of_getElem? hfail, if_pos rfl], ?_⟩
    simp [Spec.appendsIn, State.withIo]
  appends := rfl

theorem outAppend_traced (bs : List Byte) (s : State) :
    Traced (outAppend bs) s (List.replicate bs.length true) (.ok () (s.append bs)) := by
  induction bs generalizing s with
  | nil => exact Traced.ok () s
  | cons b bs ih =>
    have htail := ih (s.append [b])
    rw [State.append_append] at htail
    exact (outByte_traced b s).andThen htail

end Sys2Proof.Machine
end

section
/-! SUPPORT. The events of SCAN (R90, R211), for every choice of the host. -/

namespace Sys2Proof.Machine

variable {s t : State} {io : List Bool} {e : ErrKind} {i k n : Nat}

/-! ### The counting loop -/

/-- Over ASCII bytes the loop makes one read each. -/
theorem scanLoop_traced (hascii : isAscii (Memory.readList s.inMem i n) = true) :
    Traced (scanLoop n i) s (List.replicate n false)
      (.ok () { s with freq := countInto s.freq (Memory.readList s.inMem i n) }) := by
  induction n generalizing i s with
  | zero => exact Traced.ok () s
  | succ n ih =>
    rw [Memory.readList_cons] at hascii ⊢
    rw [isAscii_iff, List.forall_mem_cons, ← isAscii_iff] at hascii
    obtain ⟨hbyte, hrest⟩ := hascii
    have hsmall : ¬ 127 < (Memory.read s.inMem i).toNat := by omega
    refine (readIn_traced i s).andThen ?_
    refine (ih (s := { s with freq := bumpFreq s.freq (Memory.read s.inMem i).toNat }) hrest).of_eq (fun io => ?_) rfl
    exact if_neg hsmall

/-- The first byte above 127 is the last one read (R306). -/
theorem scanLoop_traced_nonAscii (hk : k < n) (hascii : isAscii (Memory.readList s.inMem i k) = true)
    (hbyte : 127 < (Memory.read s.inMem (i + k)).toNat) :
    Traced (scanLoop n i) s (List.replicate (k + 1) false)
      (.raise .nonAsciiInput { s with freq := countInto s.freq (Memory.readList s.inMem i k) }) := by
  obtain ⟨n, rfl⟩ : ∃ m, n = m + 1 := ⟨n - 1, by omega⟩
  induction k generalizing i n s with
  | zero => exact (readIn_traced i s).andThen ((Traced.raise .nonAsciiInput s).of_eq (fun io => if_pos hbyte) rfl)
  | succ k ih =>
    rw [Memory.readList_cons] at hascii ⊢
    rw [isAscii_iff, List.forall_mem_cons, ← isAscii_iff] at hascii
    obtain ⟨hfirst, hrest⟩ := hascii
    obtain ⟨n, rfl⟩ : ∃ m, n = m + 1 := ⟨n - 1, by omega⟩
    have hsmall : ¬ 127 < (Memory.read s.inMem i).toNat := by omega
    refine (readIn_traced i s).andThen ?_
    refine (ih (i := i + 1) (s := { s with freq := bumpFreq s.freq (Memory.read s.inMem i).toNat }) hrest ?_ n
      (by omega)).of_eq (fun io => ?_) rfl
    · rwa [show i + 1 + k = i + (k + 1) by omega]
    · exact if_neg hsmall

/-- A failed read leaves the counts of the bytes before it (R211). -/
theorem scanLoop_of_failure (hk : k < n) (hascii : isAscii (Memory.readList s.inMem i k) = true) (hio : IoOk io k)
    (hfail : io[k]? = some true) :
    scanLoop n i (s.withIo io) = .raise .ioFailure
      ({ s with freq := countInto s.freq (Memory.readList s.inMem i k) }.withIo (io.drop (k + 1))) := by
  obtain ⟨n, rfl⟩ : ∃ m, n = m + 1 := ⟨n - 1, by omega⟩
  induction k generalizing i n s io with
  | zero =>
    rw [scanLoop, readIn_eq, State.withIo_ioOutcomes, headD_of_getElem? hfail, if_pos rfl, ← List.drop_one]
    rfl
  | succ k ih =>
    rw [Memory.readList_cons] at hascii ⊢
    rw [isAscii_iff, List.forall_mem_cons, ← isAscii_iff] at hascii
    obtain ⟨hfirst, hrest⟩ := hascii
    obtain ⟨n, rfl⟩ : ∃ m, n = m + 1 := ⟨n - 1, by omega⟩
    have hio' : IoOk (io.drop 1) k := (ioOk_add.mp (Nat.add_comm k 1 ▸ hio)).2
    have hnext := ih (i := i + 1) (io := io.drop 1)
      (s := { s with freq := bumpFreq s.freq (Memory.read s.inMem i).toNat }) hrest hio'
      (by rw [List.getElem?_drop, Nat.add_comm, hfail]) n (by omega)
    rw [List.drop_drop, Nat.add_comm 1] at hnext
    rw [scanLoop, readIn_eq, State.withIo_ioOutcomes, hio.headD, if_neg (by decide), Res.andThen_ok, ← List.drop_one]
    have hsmall : ¬ 127 < (Memory.read s.inMem i).toNat := by omega
    refine Eq.trans (if_neg hsmall) ?_
    exact hnext

/-! ### SCAN -/

/-- The state in which SCAN begins to count (R211). -/
def State.scanStart (s : State) : State := { s with status := s.status.scanStart, freq := Vector.replicate 128 0 }

theorem bodyScan_eq (hlen : s.srclen.toNat ≤ 2147483647) :
    bodyScan s = (scanLoop s.srclen.toNat 0 s.scanStart).andThen fun _ s1 =>
      .ok () { s1 with inlen := s1.srclen, status := { s1.status with freqValid := true } } :=
  if_neg (Nat.not_lt.mpr hlen)

/-- SCAN of an ASCII source reads each byte of it. -/
theorem bodyScan_traced (hlen : s.srclen.toNat ≤ 2147483647) (hascii : isAscii s.sourceBytes = true) :
    Traced bodyScan s (List.replicate s.srclen.toNat false) (.ok () s.withScan) := by
  have hcount := countInto_zero s.sourceBytes
  have hloop := (scanLoop_traced (s := s.scanStart) hascii).andThen
    (g := fun _ s1 => .ok () { s1 with inlen := s1.srclen, status := { s1.status with freqValid := true } })
    (r := .ok () s.withScan) (ev' := []) (.of_none (fun io => by
      rw [State.withScan, ← hcount]; rfl) rfl)
  rw [List.append_nil] at hloop
  exact hloop.of_eq (fun io => bodyScan_eq (s := s.withIo io) hlen) rfl

/-- The first bytes of the source. -/
theorem State.sourceBytes_take (s : State) (hk : k ≤ s.srclen.toNat) :
    s.sourceBytes.take k = Memory.readList s.inMem 0 k := by
  rw [State.sourceBytes, ← Nat.add_sub_cancel' hk, Memory.readList_add, List.take_left' (Memory.readList_length ..)]

/-- SCAN of a source with a byte above 127 reads up to the first one. -/
theorem bodyScan_traced_nonAscii (hlen : s.srclen.toNat ≤ 2147483647) (hk : k < s.srclen.toNat)
    (hascii : isAscii (s.sourceBytes.take k) = true) (hbyte : 127 < (Memory.read s.inMem k).toNat) :
    Traced bodyScan s (List.replicate (k + 1) false)
      (.raise .nonAsciiInput { s.scanStart with freq := Spec.scanCounts (s.sourceBytes.take k) }) := by
  rw [s.sourceBytes_take (Nat.le_of_lt hk), ← countInto_zero] at *
  have hloop := (scanLoop_traced_nonAscii (s := s.scanStart) (i := 0) hk hascii (by rwa [Nat.zero_add])).andThen_raise
    (fun _ s1 => Res.ok () { s1 with inlen := s1.srclen, status := { s1.status with freqValid := true } })
  exact hloop.of_eq (fun io => bodyScan_eq (s := s.withIo io) hlen) rfl

/-- What a body that raises in `t` leaves, if `t` is a state the prologue gives. -/
theorem exec_scan_of_raise (h : bodyScan (prologue s) = .raise e (prologue t)) : exec .scan s = Spec.abort t e.code :=
  runCommand_of_raise_in h

/-- Settles O34: SCAN's reads in their order; the host fails none of them, or one, or the byte there is above 127. -/
theorem scanCountsTheSource : Obligations.ScanCountsTheSource := by
  refine ⟨fun w => decode_eq_ok_iff_of_format_n (i := .scan) rfl, fun s => ⟨fun hlong => ?_, fun hlen =>
    ⟨fun hascii hio => ?_, fun k hk hascii hio hbyte => ?_, fun k hk hascii hio hfail => ?_⟩⟩⟩
  · exact exec_scan_of_raise (t := s) (e := .inputTooLong) (if_pos hlong)
  · have hrun := (bodyScan_traced (s := prologue s) hlen hascii).runs s.ioOutcomes
      (by rw [List.length_replicate]; exact ioOk_iff_all.mpr hio)
    rw [List.length_replicate] at hrun
    exact runCommand_of_ok hrun
  · have hrun := (bodyScan_traced_nonAscii (s := prologue s) hlen hk hascii hbyte).runs s.ioOutcomes
      (by rw [List.length_replicate]; exact ioOk_iff_all.mpr hio)
    rw [List.length_replicate] at hrun
    exact exec_scan_of_raise (e := .nonAsciiInput) hrun
  · rw [s.sourceBytes_take (Nat.le_of_lt hk)] at hascii ⊢
    have hloop := scanLoop_of_failure (s := (prologue s).scanStart) (i := 0) hk hascii (ioOk_iff_all.mpr hio) hfail
    have hrun := (bodyScan_eq (s := prologue s) hlen).trans
      (congrArg (fun r : Res Unit => r.andThen fun _ s1 =>
        .ok () { s1 with inlen := s1.srclen, status := { s1.status with freqValid := true } }) hloop)
    rw [← countInto_zero]
    exact exec_scan_of_raise (e := .ioFailure) hrun

end Sys2Proof.Machine
end

section
/-! SUPPORT. The packed block as the format writes it (R85, R122 to R125): the bytes in BUF are the bits of the indices,
one field after the other. -/

namespace Sys2Proof.Machine

variable {o : IdxOrder} {prm : Params} {buf : Vector Byte 8} {bits : List Bool} {indices : List Nat}
  {alphabet text : List Byte} {b i j k n p w : Nat}

/-! ### Bits gathered into a number (R85) -/

/-- The bits of a number that is gathered from the most significant bit on. -/
theorem testBit_foldBits (f : Nat → Bool) (n k : Nat) :
    ((List.range n).foldl (fun acc i => 2 * acc + (f i).toNat) 0).testBit k = (decide (k < n) && f (n - 1 - k)) := by
  induction n generalizing k with
  | zero => simp
  | succ n ih =>
    rw [List.range_succ, List.foldl_append, List.foldl_cons, List.foldl_nil]
    cases k with
    | zero => cases hf : f n <;> simp [Nat.testBit_zero, hf]
    | succ k =>
      have hhalf (x : Nat) : (2 * x + (f n).toNat) / 2 = x := by
        have := Bool.toNat_lt (f n)
        omega
      rw [Nat.testBit_succ, hhalf, ih, show n + 1 - 1 - (k + 1) = n - 1 - k by omega]
      simp

/-- Bit `j` of byte `k` of a bit string. -/
theorem byteOfBits_getLsbD (bits : List Bool) (k j : Nat) :
    (Spec.byteOfBits bits k).getLsbD j = (decide (j < 8) && bits[8 * k + (7 - j)]?.getD false) := by
  rw [Spec.byteOfBits, BitVec.getLsbD_ofNat, testBit_foldBits (fun i => bits[8 * k + i]?.getD false)]
  by_cases hj : j < 8 <;> simp [hj]

/-! ### The fields of a block (R122, R123) -/

@[simp] theorem indexBits_length (o : IdxOrder) (w v : Nat) : (Spec.indexBits o w v).length = w := by
  simp [Spec.indexBits]

/-- A bit of BUF after indices were placed: the bit of the field strings from position `p` on, else what was there. -/
theorem getBit_packIndices (hfit : (p + indices.length) * w ≤ 64) :
    getBit (packIndices o w indices p buf) i =
      if p * w ≤ i ∧ i < (p + indices.length) * w then
        (indices.flatMap (Spec.indexBits o w))[i - p * w]?.getD false
      else getBit buf i := by
  induction indices generalizing p buf with
  | nil => rw [if_neg (by simp only [List.length_nil, Nat.add_zero]; omega)]; rfl
  | cons v vs ih =>
    rw [List.length_cons] at hfit ⊢
    have hcount : p + 1 + vs.length = p + (vs.length + 1) := by omega
    have hfield : (p + 1) * w = p * w + w := Nat.succ_mul p w
    have hle : p * w + w ≤ (p + (vs.length + 1)) * w := hfield ▸ Nat.mul_le_mul_right w (by omega)
    rw [packIndices, ih (hcount ▸ hfit), hcount, getBit_putIndex o v (hle.trans hfit), hfield, List.flatMap_cons]
    by_cases hlater : p * w + w ≤ i ∧ i < (p + (vs.length + 1)) * w
    · rw [if_pos hlater, if_pos (by omega), List.getElem?_append_right (by rw [indexBits_length]; omega),
        indexBits_length, Nat.sub_sub]
    · rw [if_neg hlater]
      by_cases hfirst : p * w ≤ i ∧ i < p * w + w
      · rw [if_pos hfirst, if_pos (by omega), List.getElem?_append_left (by rw [indexBits_length]; omega),
          Spec.indexBits, List.getElem?_map, List.getElem?_range (by omega), Option.map_some, Option.getD_some,
          Spec.fieldBit_eq_testBit]
      · rw [if_neg hfirst, if_neg (by omega)]

/-- The length of the field strings of some indices. -/
theorem length_flatMap_indexBits (o : IdxOrder) (w : Nat) (indices : List Nat) :
    (indices.flatMap (Spec.indexBits o w)).length = indices.length * w := by
  simp [List.length_flatMap]

/-- BUF, cleared, with indices placed holds the packed block of 8 bytes (R125). -/
theorem packIndices_toList (hfit : indices.length * w ≤ 64) :
    (packIndices o w indices 0 (Vector.replicate 8 0)).toList = Spec.packBlock o w 8 indices := by
  refine List.ext_getElem (by simp [Spec.packBlock]) fun k hk _ => ?_
  have hk : k < 8 := by simpa using hk
  simp only [Spec.packBlock, List.getElem_map, List.getElem_range, Vector.getElem_toList]
  refine BitVec.eq_of_getLsbD_eq fun j hj => ?_
  have hbit : getBit (packIndices o w indices 0 (Vector.replicate 8 0)) (8 * k + (7 - j)) =
      ((packIndices o w indices 0 (Vector.replicate 8 0))[k]).getLsbD j := by
    rw [getBit, show (8 * k + (7 - j)) / 8 = k by omega, show 7 - (8 * k + (7 - j)) % 8 = j by omega]
    simp [hk]
  have hzero : getBit (Vector.replicate 8 0) (8 * k + (7 - j)) = false := by
    rw [getBit, show (8 * k + (7 - j)) / 8 = k by omega]
    simp [hk]
  rw [← hbit, getBit_packIndices (by rwa [Nat.zero_add]), byteOfBits_getLsbD, Nat.zero_mul, Nat.zero_add, Nat.sub_zero,
    hzero]
  by_cases hin : 8 * k + (7 - j) < indices.length * w
  · simp [hin, hj]
  · rw [if_neg (by omega), List.getElem?_eq_none (by rw [length_flatMap_indexBits]; omega)]
    simp

/-- A packed block of fewer bytes is the first of them. -/
theorem packBlock_take (hb : b ≤ 8) : (Spec.packBlock o w 8 indices).take b = Spec.packBlock o w b indices := by
  rw [Spec.packBlock, ← List.map_take, List.take_range, Nat.min_eq_left hb, Spec.packBlock]

/-- ENCODE's block is the format's. -/
theorem blockBytes_eq_packBlock (hw : 1 ≤ w) (hw7 : w ≤ 7) (hcount : indices.length ≤ (geometry prm w).1) :
    blockBytes prm w indices = Spec.packBlock prm.idxOrder w (geometry prm w).2 indices := by
  have hfit : indices.length * w ≤ 64 := by
    have hfields := geometry_fields prm hw hw7
    have hbytes := geometry_bytes_le prm hw hw7
    have := Nat.mul_le_mul_right w hcount
    omega
  rw [blockBytes, packIndices_toList hfit, packBlock_take (geometry_bytes_le prm hw hw7)]

/-- ENCODE's blocks are the format's blocks of the chunks (R122). -/
theorem packedBlocks_eq_flatMap (hw : 1 ≤ w) (hw7 : w ≤ 7) (n : Nat) (text : List Byte) :
    packedBlocks prm w alphabet n text = (List.range n).flatMap fun k =>
      Spec.packBlock prm.idxOrder w (geometry prm w).2
        ((Spec.chunk text (geometry prm w).1 k).map (Spec.indexOf alphabet)) := by
  induction n generalizing text with
  | zero => rfl
  | succ n ih =>
    have hchunk (k : Nat) : Spec.chunk (text.drop (geometry prm w).1) (geometry prm w).1 k =
        Spec.chunk text (geometry prm w).1 (k + 1) := by
      rw [Spec.chunk, Spec.chunk, List.drop_drop, Nat.succ_mul, Nat.add_comm]
    have hfirst : Spec.chunk text (geometry prm w).1 0 = text.take (geometry prm w).1 := by
      rw [Spec.chunk, Nat.zero_mul, List.drop_zero]
    rw [packedBlocks, blockBytes_eq_packBlock hw hw7 (by simp), ih, List.range_succ_eq_map, List.flatMap_cons, hfirst,
      List.flatMap_map]
    simp only [hchunk]

/-! ### The file of a text (R118) -/

theorem Spec.widthOf_bounds (text : List Byte) : 1 ≤ Spec.widthOf text ∧ Spec.widthOf text ≤ 7 := selectWidth_bounds _

/-- ENCODE's file is the format's. -/
theorem packedFile_eq_fileOf (p : Params) (text : List Byte) :
    packedFile p (Spec.alphabetOf text) (Spec.widthOf text) (Spec.odlOfText p text) text = Spec.fileOf p text := by
  obtain ⟨hw, hw7⟩ := Spec.widthOf_bounds text
  rw [packedFile, packedBlocks_eq_flatMap hw hw7, Spec.fileOf, List.append_assoc]
  rfl

end Sys2Proof.Machine
end

section
/-! SUPPORT. The events of ENCODE (R90, R260 to R270), for every choice of the host. -/

namespace Sys2Proof.Machine

variable {s t u : State} {io ev : List Bool} {e : ErrKind} {k n p pos : Nat}

/-! ### The loops of ENCODE -/

/-- A character of the Alphabet is found at its index (R214). -/
theorem lookupIndex_of_mem {alphabet : List Byte} {c : Byte} (hc : c ∈ alphabet) :
    lookupIndex alphabet c = some (Spec.indexOf alphabet c) := by
  cases h : lookupIndex alphabet c with
  | none => exact absurd hc (lookupIndex_eq_none_iff.mp h)
  | some k => rw [eq_indexOf_of_lookupIndex h]

/-- The indices of the `n` characters at position `pos` of IN. -/
def State.sourceIndices (s : State) (pos n : Nat) : List Nat :=
  (Memory.readList s.inMem pos n).map (Spec.indexOf s.alphabet)

/-- One chunk: a read for each character, and its indices in BUF (R268). -/
theorem encodeChars_traced (hmem : ∀ c ∈ Memory.readList s.inMem pos n, c ∈ s.alphabet) :
    Traced (encodeChars n pos p) s (List.replicate n false)
      (.ok () (s.setBuf (packIndices s.params.idxOrder s.cw.toNat (s.sourceIndices pos n) p s.buf))) := by
  induction n generalizing pos p s with
  | zero => exact Traced.ok () s
  | succ n ih =>
    rw [State.sourceIndices, Memory.readList_cons] at *
    obtain ⟨hfirst, hrest⟩ := List.forall_mem_cons.mp hmem
    refine (readIn_traced pos s).andThen ?_
    refine (ih (p := p + 1) (s := s.setBuf (putIndex s.params.idxOrder (Spec.indexOf s.alphabet (Memory.read s.inMem pos))
      p s.cw.toNat s.buf)) hrest).of_eq (fun io => ?_) rfl
    have hlookup : lookupIndex (s.withIo io).alphabet (Memory.read s.inMem pos) = _ := lookupIndex_of_mem hfirst
    simp only [hlookup]
    rfl

/-- The events of a block of `c` characters and `b` bytes. -/
def blockEvents (c b : Nat) : List Bool := List.replicate c false ++ List.replicate b true

@[simp] theorem State.append_params (s : State) (bs : List Byte) : (s.append bs).params = s.params := rfl
@[simp] theorem State.append_inMem (s : State) (bs : List Byte) : (s.append bs).inMem = s.inMem := rfl
@[simp] theorem State.append_cw (s : State) (bs : List Byte) : (s.append bs).cw = s.cw := rfl
@[simp] theorem State.append_cpb (s : State) (bs : List Byte) : (s.append bs).cpb = s.cpb := rfl
@[simp] theorem State.append_bpb (s : State) (bs : List Byte) : (s.append bs).bpb = s.bpb := rfl
@[simp] theorem State.append_buf (s : State) (bs : List Byte) : (s.append bs).buf = s.buf := rfl
@[simp] theorem State.append_emitted (s : State) (bs : List Byte) : (s.append bs).emitted = s.emitted := rfl
@[simp] theorem State.append_alphabet (s : State) (bs : List Byte) : (s.append bs).alphabet = s.alphabet := rfl
@[simp] theorem State.addEmitted_alphabet (s : State) (n : Nat) : (s.addEmitted n).alphabet = s.alphabet := rfl

/-- BUF with the indices of the chunk at position `pos` (R268). -/
def State.packedChunk (s : State) (pos : Nat) : Vector Byte 8 :=
  packIndices s.params.idxOrder s.cw.toNat (s.sourceIndices pos s.cpb.toNat) 0 (Vector.replicate 8 0)

/-- The state after the block of the chunk at position `pos` (R268). -/
def State.withBlock (s : State) (pos : Nat) : State :=
  ((s.setBuf (s.packedChunk pos)).append ((s.packedChunk pos).toList.take s.bpb.toNat)).addEmitted s.cpb.toNat

theorem State.withBlock_params (s : State) (pos : Nat) : (s.withBlock pos).params = s.params := by
  simp [State.withBlock]

theorem State.withBlock_inMem (s : State) (pos : Nat) : (s.withBlock pos).inMem = s.inMem := by
  simp [State.withBlock]

theorem State.withBlock_cw (s : State) (pos : Nat) : (s.withBlock pos).cw = s.cw := by
  simp [State.withBlock]

theorem State.withBlock_cpb (s : State) (pos : Nat) : (s.withBlock pos).cpb = s.cpb := by
  simp [State.withBlock]

theorem State.withBlock_bpb (s : State) (pos : Nat) : (s.withBlock pos).bpb = s.bpb := by
  simp [State.withBlock]

theorem State.withBlock_alphabet (s : State) (pos : Nat) : (s.withBlock pos).alphabet = s.alphabet := by
  simp [State.withBlock]

theorem State.withBlock_buf (s : State) (pos : Nat) : (s.withBlock pos).buf = s.packedChunk pos := by
  simp [State.withBlock]

theorem State.withBlock_emitted (s : State) (pos : Nat) :
    (s.withBlock pos).emitted = s.emitted + BitVec.ofNat 32 s.cpb.toNat := by
  simp [State.withBlock]

/-- The indices of a chunk do not depend on the blocks before it. -/
theorem State.withBlock_packedChunk (s : State) (pos q : Nat) :
    (s.withBlock pos).packedChunk q = s.packedChunk q := by
  simp only [State.packedChunk, State.sourceIndices, s.withBlock_params, s.withBlock_inMem, s.withBlock_cw,
    s.withBlock_cpb, s.withBlock_alphabet]

/-- One block: the reads of its chunk, then its appends (R268). -/
theorem encodeBlock_traced (hmem : ∀ c ∈ Memory.readList s.inMem pos s.cpb.toNat, c ∈ s.alphabet)
    (hbpb : s.bpb.toNat ≤ 8) {r : Res Unit}
    (hrest : Traced (encodeBlocks n (pos + s.cpb.toNat)) (s.withBlock pos) ev r) :
    Traced (encodeBlocks (n + 1) pos) s (blockEvents s.cpb.toNat s.bpb.toNat ++ ev) r := by
  have hchars := encodeChars_traced (s := s.setBuf (Vector.replicate 8 0)) (p := 0) (n := s.cpb.toNat) hmem
  have happend := outAppend_traced ((s.packedChunk pos).toList.take s.bpb.toNat) (s.setBuf (s.packedChunk pos))
  rw [show ((s.packedChunk pos).toList.take s.bpb.toNat).length = s.bpb.toNat by simpa using hbpb] at happend
  have hblock := hchars.andThen (g := fun _ s1 => (outAppend (s1.buf.toList.take s1.bpb.toNat) s1).andThen
    fun _ s2 => encodeBlocks n (pos + s2.cpb.toNat) (s2.addEmitted s2.cpb.toNat))
    ((happend.andThen (g := fun _ s2 => encodeBlocks n (pos + s2.cpb.toNat) (s2.addEmitted s2.cpb.toNat))
      (hrest.of_eq (fun _ => rfl) rfl)).of_eq (fun _ => rfl) rfl)
  rw [blockEvents, List.append_assoc]
  exact hblock.of_eq (fun _ => rfl) rfl

/-- The packed blocks: each chunk's reads, then its block's appends; EMITTED counts the characters, and BUF holds the
last chunk (R268). -/
theorem encodeBlocks_traced (hmem : ∀ c ∈ Memory.readList s.inMem pos (n * s.cpb.toNat), c ∈ s.alphabet)
    (hbpb : s.bpb.toNat ≤ 8) :
    ∃ t, Traced (encodeBlocks n pos) s (List.replicate n (blockEvents s.cpb.toNat s.bpb.toNat)).flatten (.ok () t) ∧
      t.emitted = s.emitted + BitVec.ofNat 32 (n * s.cpb.toNat) ∧
      t.buf = if n = 0 then s.buf else s.packedChunk (pos + (n - 1) * s.cpb.toNat) := by
  induction n generalizing pos s with
  | zero => exact ⟨s, Traced.ok () s, by simp, rfl⟩
  | succ n ih =>
    rw [Nat.succ_mul, Nat.add_comm, Memory.readList_add] at hmem
    obtain ⟨t, hrest, hemitted, hbuf⟩ := ih (s := s.withBlock pos) (pos := pos + s.cpb.toNat)
      (by rw [s.withBlock_inMem, s.withBlock_cpb, s.withBlock_alphabet]
          exact fun c hc => hmem c (List.mem_append_right _ hc))
      (by rwa [s.withBlock_bpb])
    rw [s.withBlock_cpb, s.withBlock_bpb] at hrest
    rw [s.withBlock_cpb, s.withBlock_emitted, BitVec.add_assoc, ← BitVec.ofNat_add, Nat.add_comm, ← Nat.succ_mul]
      at hemitted
    rw [s.withBlock_cpb, s.withBlock_buf, s.withBlock_packedChunk] at hbuf
    refine ⟨t, ?_, hemitted, ?_⟩
    · rw [List.replicate_succ, List.flatten_cons]
      exact encodeBlock_traced (fun c hc => hmem c (List.mem_append_left _ hc)) hbpb hrest
    · rw [hbuf, if_neg (Nat.succ_ne_zero n), Nat.add_sub_cancel]
      cases n with
      | zero => rw [if_pos rfl, Nat.zero_mul, Nat.add_zero]
      | succ n => rw [if_neg (Nat.succ_ne_zero n), Nat.add_sub_cancel, Nat.succ_mul, Nat.add_assoc,
          Nat.add_comm s.cpb.toNat]

theorem tailEvents_succ (n : Nat) : Spec.tailEvents (n + 1) = [false] ++ ([true] ++ Spec.tailEvents n) := rfl

/-- The raw tail: a read and an append for each byte (R269). -/
theorem copyTail_traced (n pos : Nat) (s : State) :
    ∃ t, Traced (copyTail n pos) s (Spec.tailEvents n) (.ok () t) ∧
      t.emitted = s.emitted + BitVec.ofNat 32 n ∧ t.buf = s.buf := by
  induction n generalizing pos s with
  | zero => exact ⟨s, Traced.ok () s, by simp, rfl⟩
  | succ n ih =>
    obtain ⟨t, hrest, hemitted, hbuf⟩ := ih (pos + 1) ((s.append [Memory.read s.inMem pos]).addEmitted 1)
    refine ⟨t, ?_, ?_, hbuf⟩
    · rw [tailEvents_succ]
      refine (readIn_traced pos s).andThen ((outByte_traced _ s).andThen ?_)
      exact hrest.of_eq (fun _ => rfl) rfl
    · rw [hemitted, Nat.add_comm n 1, BitVec.ofNat_add, ← BitVec.add_assoc]
      rfl

/-- The last indices placed in BUF by an output of `n` blocks, if there is one. -/
def State.lastBlock (s : State) (n : Nat) : Vector Byte 8 :=
  if n = 0 then s.buf else s.packedChunk ((n - 1) * s.cpb.toNat)

/-- The events of ENCODE's output. -/
def State.outputEvents (s : State) : List Bool :=
  List.replicate (16 + s.alphabet.length) true ++
    (List.replicate (s.inlen.toNat / s.cpb.toNat) (blockEvents s.cpb.toNat s.bpb.toNat)).flatten ++
    Spec.tailEvents (s.inlen.toNat % s.cpb.toNat)

/-- Steps 7 and 8 of ENCODE (R268, R269). -/
def encodePacked (s : State) : Res Unit :=
  (encodeBlocks (s.inlen.toNat / s.cpb.toNat) 0 s).andThen fun _ s3 =>
    copyTail (s3.inlen.toNat % s3.cpb.toNat) (s3.inlen.toNat / s3.cpb.toNat * s3.cpb.toNat) s3

theorem encodeOutput_eq (s : State) : encodeOutput s =
    (outAppend (headerBytes s) s).andThen fun _ s1 => (outAppend s1.alphabet s1).andThen fun _ s2 => encodePacked s2 :=
  rfl

/-- The blocks leave the registers alone that the tail reads. -/
theorem encodeBlocks_traced_frame {r : Res Unit} (h : Traced (encodeBlocks n pos) s ev r) :
    r.state.inlen = s.inlen ∧ r.state.cpb = s.cpb := by
  obtain ⟨b, em, m, len, io, hframe⟩ := encodeBlocks_frame n pos (s.withIo (List.replicate ev.length false))
  rw [h.runs _ (by simpa using ioOk_replicate ev.length ev.length [] (Nat.le_refl _))] at hframe
  cases r <;> exact ⟨(congrArg State.inlen hframe).trans rfl, (congrArg State.cpb hframe).trans rfl⟩

/-- Steps 7 and 8, when every character is in the Alphabet. -/
theorem encodePacked_traced (hinlen : s.inlen = s.srclen) (hmem : ∀ c ∈ s.sourceBytes, c ∈ s.alphabet)
    (hbpb : s.bpb.toNat ≤ 8) :
    ∃ t, Traced encodePacked s ((List.replicate (s.inlen.toNat / s.cpb.toNat)
        (blockEvents s.cpb.toNat s.bpb.toNat)).flatten ++ Spec.tailEvents (s.inlen.toNat % s.cpb.toNat)) (.ok () t) ∧
      t.emitted = s.emitted + s.inlen ∧ t.buf = s.lastBlock (s.inlen.toNat / s.cpb.toNat) := by
  have hle : s.inlen.toNat / s.cpb.toNat * s.cpb.toNat ≤ s.srclen.toNat := hinlen ▸ Nat.div_mul_le_self _ _
  rw [State.sourceBytes, ← Nat.add_sub_cancel' hle, Memory.readList_add] at hmem
  obtain ⟨t3, hblocks, hemitted3, hbuf3⟩ :=
    encodeBlocks_traced (pos := 0) (fun c hc => hmem c (List.mem_append_left _ hc)) hbpb
  obtain ⟨hinlen3, hcpb3⟩ : t3.inlen = s.inlen ∧ t3.cpb = s.cpb := encodeBlocks_traced_frame hblocks
  obtain ⟨t, htail, hemitted, hbuf⟩ := copyTail_traced (t3.inlen.toNat % t3.cpb.toNat)
    (t3.inlen.toNat / t3.cpb.toNat * t3.cpb.toNat) t3
  refine ⟨t, ?_, ?_, ?_⟩
  · have hrun := hblocks.andThen (g := fun _ s3 => copyTail (s3.inlen.toNat % s3.cpb.toNat)
      (s3.inlen.toNat / s3.cpb.toNat * s3.cpb.toNat) s3) (htail.of_eq (fun _ => rfl) rfl)
    rw [hinlen3, hcpb3] at hrun
    exact hrun.of_eq (fun _ => rfl) rfl
  · rw [hemitted, hemitted3, hinlen3, hcpb3, BitVec.add_assoc, ← BitVec.ofNat_add, Nat.div_add_mod',
      BitVec.ofNat_toNat, BitVec.setWidth_eq]
  · rw [hbuf, hbuf3, Nat.zero_add, State.lastBlock]

/-- The output of ENCODE, when every character is in the Alphabet: header, Alphabet, blocks, tail (R267 to R269). -/
theorem encodeOutput_traced (hinlen : s.inlen = s.srclen) (hmem : ∀ c ∈ s.sourceBytes, c ∈ s.alphabet)
    (hbpb : s.bpb.toNat ≤ 8) :
    ∃ t, Traced encodeOutput s s.outputEvents (.ok () t) ∧ t.emitted = s.emitted + s.inlen ∧
      t.buf = s.lastBlock (s.inlen.toNat / s.cpb.toNat) := by
  have hheader : (headerBytes s).length = 16 := by simp [headerBytes]
  have hhead := outAppend_traced (headerBytes s) s
  have halphabet := outAppend_traced s.alphabet (s.append (headerBytes s))
  rw [State.append_append] at halphabet
  obtain ⟨t, hpacked, hemitted, hbuf⟩ :=
    encodePacked_traced (s := s.append (headerBytes s ++ s.alphabet)) hinlen hmem hbpb
  refine ⟨t, ?_, hemitted, hbuf⟩
  have hrun := hhead.andThen (g := fun _ s1 => (outAppend s1.alphabet s1).andThen fun _ s2 => encodePacked s2)
    ((halphabet.andThen (g := fun _ s2 => encodePacked s2) hpacked).of_eq (fun _ => rfl) rfl)
  rw [hheader] at hrun
  rw [State.outputEvents, ← List.replicate_append_replicate, List.append_assoc, List.append_assoc]
  exact hrun.of_eq (fun io => encodeOutput_eq (s.withIo io)) rfl

/-! ### ENCODE up to the close -/

/-- A source that SCAN refuses (R211, R261). -/
theorem encodeMain_traced_of_scan (h : Traced bodyScan s.freshSink ev (.raise e t)) :
    Traced encodeMain s.freshSink ev (.raise e t) :=
  (h.andThen_raise (g := fun _ s1 => (bodyDedup s1).andThen fun _ s2 => (bodyTree s2).andThen fun _ s3 =>
    (encodeGain s3).andThen fun _ s4 => encodeOutput s4)).of_eq (fun _ => rfl) rfl

/-- After an ASCII source was scanned, the rest of ENCODE makes the further events. -/
theorem encodeMain_traced_of_ascii {r : Res Unit} (hlen : s.srclen.toNat ≤ 2147483647)
    (hascii : isAscii s.sourceBytes = true)
    (h : Traced (fun s1 => (bodyDedup s1).andThen fun _ s2 => (bodyTree s2).andThen fun _ s3 =>
      (encodeGain s3).andThen fun _ s4 => encodeOutput s4) s.freshSink.withScan ev r) :
    Traced encodeMain s.freshSink (List.replicate s.srclen.toNat false ++ ev) r :=
  ((bodyScan_traced (s := s.freshSink) hlen hascii).andThen (g := fun _ s1 => (bodyDedup s1).andThen fun _ s2 =>
    (bodyTree s2).andThen fun _ s3 => (encodeGain s3).andThen fun _ s4 => encodeOutput s4) h).of_eq (fun _ => rfl) rfl

/-- An empty source has no Alphabet (R213, R263). -/
theorem encodeMain_traced_of_empty (hempty : s.srclen.toNat = 0) :
    ∃ t, Traced encodeMain s.freshSink [] (.raise .emptyInput t) := by
  have hsource : s.sourceBytes = [] := List.length_eq_zero_iff.mp (s.sourceBytes_length.trans hempty)
  have hnil : dedupList s.freshSink.withScan.freq = [] := by
    show dedupList (Spec.scanCounts s.sourceBytes) = []
    rw [dedupList_eq_nil_iff, hsource]
    intro c hc
    simp [Spec.scanCounts]
  have hdedup : Traced bodyDedup s.freshSink.withScan [] _ :=
    .of_none (fun io => bodyDedup_of_nil (s := s.freshSink.withScan.withIo io) rfl hnil)
      (r := .raise .emptyInput (s.freshSink.withScan.setStatus s.freshSink.withScan.status.dedupStart)) rfl
  have hmain := encodeMain_traced_of_ascii (s := s) (by omega) (by rw [hsource]; rfl) (hdedup.andThen_raise _)
  rw [hempty] at hmain
  exact ⟨_, hmain⟩

/-- The source of an ENCODE that comes to the gain check. -/
structure Encodable (s : State) : Prop where
  ascii : isAscii s.sourceBytes = true
  nonempty : 1 ≤ s.srclen.toNat
  le_max : s.srclen.toNat ≤ 2147483647

theorem State.sourceBytes_length_lt (s : State) : s.sourceBytes.length < 2 ^ 32 :=
  s.sourceBytes_length ▸ s.srclen.isLt

theorem Encodable.dedupList_ne_nil (h : Encodable s) : dedupList (Spec.scanCounts s.sourceBytes) ≠ [] := by
  obtain ⟨c, hc⟩ := List.exists_mem_of_length_pos (s.sourceBytes_length ▸ h.nonempty)
  exact List.ne_nil_of_mem (mem_dedupList_scanCounts h.ascii s.sourceBytes_length_lt hc)

theorem Encodable.alphabetOf_length (h : Encodable s) :
    1 ≤ (Spec.alphabetOf s.sourceBytes).length ∧ (Spec.alphabetOf s.sourceBytes).length ≤ 128 := by
  rw [← dedupList_scanCounts s.sourceBytes_length_lt]
  exact ⟨List.length_pos_of_ne_nil h.dedupList_ne_nil, dedupList_length_le _⟩

theorem bodyDedup_traced (hfreq : s.status.freqValid = true) (hne : dedupList s.freq ≠ []) :
    Traced bodyDedup s [] (.ok () s.withDedup) :=
  .of_none (fun io => bodyDedup_of_ne_nil (s := s.withIo io) hfreq hne) rfl

theorem bodyTree_traced (halpha : s.status.alphaValid = true) (hfreq : s.status.freqValid = true)
    (hpos : 1 ≤ s.tlen.toNat) (hn : s.tlen.toNat ≤ 128) : Traced bodyTree s [] (.ok () s.withTree) :=
  .of_none (fun io => bodyTree_of_alphabet (s := s.withIo io) halpha hfreq hpos hn) rfl

theorem State.withDedup_tlen (s : State) : s.withDedup.tlen.toNat = (dedupList s.freq).length :=
  Nat.mod_eq_of_lt ((dedupList_length_le s.freq).trans_lt (by decide))

theorem State.withScan_freq (s : State) : s.freshSink.withScan.freq = Spec.scanCounts s.sourceBytes := rfl

/-- SCAN, DEDUP and TREE of a source that is not empty make one read for each byte (R261, R263). -/
theorem Encodable.encodeMain_traced {r : Res Unit} (h : Encodable s)
    (hrest : Traced (fun s3 => (encodeGain s3).andThen fun _ s4 => encodeOutput s4) s.beforeGain ev r) :
    Traced encodeMain s.freshSink (List.replicate s.srclen.toNat false ++ ev) r := by
  have hne : dedupList s.freshSink.withScan.freq ≠ [] := s.withScan_freq ▸ h.dedupList_ne_nil
  have htlen := s.freshSink.withScan.withDedup_tlen
  have hdedup := bodyDedup_traced rfl hne
  have htree := bodyTree_traced (s := s.freshSink.withScan.withDedup) rfl rfl
    (htlen ▸ List.length_pos_of_ne_nil hne) (htlen ▸ dedupList_length_le _)
  exact encodeMain_traced_of_ascii h.le_max h.ascii (hdedup.andThen (htree.andThen hrest))

/-- The state in which ENCODE begins its output, after a gain check that passed. -/
def State.gained (s : State) : State := s.beforeGain.withGain

/-- What DEDUP and TREE leave alone is in the gain check as SCAN left it. -/
theorem State.beforeGain_keeps {α : Type} (s : State) (f : State → α) (hdedup : ∀ u : State, f u.withDedup = f u)
    (htree : ∀ u : State, f u.withTree = f u) : f s.beforeGain = f s.freshSink.withScan :=
  (htree _).trans (hdedup _)

/-- What DEDUP, TREE and the gain check leave alone is in the output as SCAN left it. -/
theorem State.gained_keeps {α : Type} (s : State) (f : State → α) (hdedup : ∀ u : State, f u.withDedup = f u)
    (htree : ∀ u : State, f u.withTree = f u) (hgain : ∀ u : State, f u.withGain = f u) :
    f s.gained = f s.freshSink.withScan :=
  (hgain _).trans (s.beforeGain_keeps f hdedup htree)

theorem State.withDedup_alphabet (u : State) : u.withDedup.alphabet = dedupList u.freq := by
  have htlen : u.withDedup.tlen.toNat = (dedupList u.freq).length :=
    Nat.mod_eq_of_lt ((dedupList_length_le u.freq).trans_lt (by decide))
  rw [State.alphabet, htlen]
  exact writeFrom_take _ _ (dedupList_length_le _)

theorem State.withTree_alphabet (u : State) : u.withTree.alphabet = u.alphabet := rfl
theorem State.withGain_alphabet (u : State) : u.withGain.alphabet = u.alphabet := rfl

theorem State.gained_alphabet (s : State) : s.gained.alphabet = Spec.alphabetOf s.sourceBytes := by
  rw [State.gained, State.withGain_alphabet, State.beforeGain, State.withTree_alphabet, State.withDedup_alphabet]
  exact dedupList_scanCounts s.sourceBytes_length_lt

theorem State.beforeGain_inlen (s : State) : s.beforeGain.inlen = s.srclen :=
  s.beforeGain_keeps State.inlen (fun _ => rfl) fun _ => rfl
theorem State.beforeGain_params (s : State) : s.beforeGain.params = s.params :=
  s.beforeGain_keeps State.params (fun _ => rfl) fun _ => rfl

theorem encodeGain_traced_no_gain (h : s.inlen.toNat ≤ totoutOf s.params s.tlen.toNat s.withGain.odl.toNat) :
    Traced encodeGain s [] (.raise .noGainAbort s.withGain) :=
  .of_none (fun io => encodeGain_of_no_gain (s := s.withIo io) h) rfl

theorem encodeGain_traced_gain (h : ¬ s.inlen.toNat ≤ totoutOf s.params s.tlen.toNat s.withGain.odl.toNat) :
    Traced encodeGain s [] (.ok () s.withGain) :=
  .of_none (fun io => encodeGain_of_gain (s := s.withIo io) h) rfl

/-- The registers hold the figures of the source (R264 to R266). -/
theorem State.gained_figures (s : State) :
    s.gained.cw.toNat = Spec.widthOf s.sourceBytes ∧
      s.gained.cpb.toNat = (geometry s.params (Spec.widthOf s.sourceBytes)).1 ∧
      s.gained.bpb.toNat = (geometry s.params (Spec.widthOf s.sourceBytes)).2 ∧
      s.gained.odl = Spec.odlOfText s.params s.sourceBytes ∧
      s.gained.totout = BitVec.ofNat 32 (Spec.totoutOfText s.params s.sourceBytes) := by
  have hfigures := State.withGain_figures (s := s.beforeGain) s.beforeGain_tlen
    (by rw [s.beforeGain_inlen, s.sourceBytes_length])
  rwa [s.beforeGain_params] at hfigures

/-- The comparison of the gain check, in the source's figures (R266). -/
theorem State.beforeGain_check (s : State) :
    s.beforeGain.inlen.toNat ≤ totoutOf s.beforeGain.params s.beforeGain.tlen.toNat s.beforeGain.withGain.odl.toNat ↔
      s.srclen.toNat ≤ Spec.totoutOfText s.params s.sourceBytes := by
  have hodl : s.beforeGain.withGain.odl = Spec.odlOfText s.params s.sourceBytes := s.gained_figures.2.2.2.1
  rw [s.beforeGain_inlen, s.beforeGain_params, s.beforeGain_tlen, hodl, Spec.totoutOfText]

/-- A source that does not pass the gain check is read once (R266). -/
theorem Encodable.encodeMain_traced_no_gain (h : Encodable s)
    (hgain : s.srclen.toNat ≤ Spec.totoutOfText s.params s.sourceBytes) :
    Traced encodeMain s.freshSink (List.replicate s.srclen.toNat false) (.raise .noGainAbort s.gained) := by
  have hraise := encodeGain_traced_no_gain (s.beforeGain_check.mpr hgain)
  have hmain := h.encodeMain_traced (hraise.andThen_raise fun _ s4 => encodeOutput s4)
  rwa [List.append_nil] at hmain

theorem State.gained_inlen (s : State) : s.gained.inlen = s.srclen :=
  s.gained_keeps State.inlen (fun _ => rfl) (fun _ => rfl) fun _ => rfl
theorem State.gained_srclen (s : State) : s.gained.srclen = s.srclen :=
  s.gained_keeps State.srclen (fun _ => rfl) (fun _ => rfl) fun _ => rfl
theorem State.gained_inMem (s : State) : s.gained.inMem = s.inMem :=
  s.gained_keeps State.inMem (fun _ => rfl) (fun _ => rfl) fun _ => rfl
theorem State.gained_sourceBytes (s : State) : s.gained.sourceBytes = s.sourceBytes := by
  rw [State.sourceBytes, s.gained_inMem, s.gained_srclen, State.sourceBytes]
theorem State.gained_params (s : State) : s.gained.params = s.params :=
  s.gained_keeps State.params (fun _ => rfl) (fun _ => rfl) fun _ => rfl
theorem State.gained_emitted (s : State) : s.gained.emitted = 0 :=
  s.gained_keeps State.emitted (fun _ => rfl) (fun _ => rfl) fun _ => rfl

/-- The events of ENCODE's reads of the source and of its output are those of the format (R260). -/
theorem State.gained_events (s : State) :
    List.replicate s.srclen.toNat false ++ s.gained.outputEvents = Spec.encodeEvents s.params s.sourceBytes := by
  obtain ⟨-, hcpb, hbpb, -, -⟩ := s.gained_figures
  rw [State.outputEvents, s.gained_alphabet, hcpb, hbpb, s.gained_inlen, Spec.encodeEvents, s.sourceBytes_length]
  simp only [List.append_assoc, blockEvents]

/-- The state at the end of an output keeps all but BUF, EMITTED, OUT and OUTLEN. -/
theorem encodeOutput_traced_frame (h : Traced encodeOutput s ev (.ok () t)) :
    ∃ m len io, t = { s with buf := t.buf, emitted := t.emitted, outMem := m, outlen := len, ioOutcomes := io } := by
  obtain ⟨b, em, m, len, io, hframe⟩ := encodeOutput_frame (s.withIo (List.replicate ev.length false))
  rw [h.runs _ (by simpa using ioOk_replicate ev.length ev.length [] (Nat.le_refl _))] at hframe
  have hstate : t.withIo ((List.replicate ev.length false).drop ev.length) =
    { s with buf := b, emitted := em, outMem := m, outlen := len, ioOutcomes := io } := hframe
  obtain rfl : t.buf = b := congrArg State.buf hstate
  obtain rfl : t.emitted = em := congrArg State.emitted hstate
  exact ⟨m, len, t.ioOutcomes, congrArg (State.withIo · t.ioOutcomes) hstate⟩

theorem State.gained_outMem (s : State) : s.gained.outMem = s.outMem :=
  s.gained_keeps State.outMem (fun _ => rfl) (fun _ => rfl) fun _ => rfl
theorem State.gained_outlen (s : State) : s.gained.outlen = 0 :=
  s.gained_keeps State.outlen (fun _ => rfl) (fun _ => rfl) fun _ => rfl
theorem State.gained_tlen (s : State) : s.gained.tlen.toNat = (Spec.alphabetOf s.sourceBytes).length :=
  s.beforeGain_tlen

/-- The bytes appended by an output are a file at the width in the registers (R118). -/
theorem encodeOutput_traced_writes (hinlen : s.inlen = s.srclen) (htlen : s.tlen.toNat = s.alphabet.length)
    (hcpb : s.cpb.toNat = (geometry s.params s.cw.toNat).1) (hbpb : s.bpb.toNat = (geometry s.params s.cw.toNat).2)
    (h : Traced encodeOutput s ev (.ok () t)) :
    Writes s (packedFile s.params s.alphabet s.cw.toNat s.odl s.sourceBytes) t := by
  have hw := encodeOutput_of_ok (s := s.withIo (List.replicate ev.length false)) hinlen htlen hcpb hbpb
    (h.runs _ (by simpa using ioOk_replicate ev.length ev.length [] (Nat.le_refl _)))
  exact ⟨hw.setup, hw.sink⟩

/-- The bytes appended by the output of ENCODE are the file of the source (R118). -/
theorem State.gained_writes (h : Traced encodeOutput s.gained ev (.ok () t)) :
    Writes s.gained (Spec.fileOf s.params s.sourceBytes) t := by
  obtain ⟨hcw, hcpb, hbpb, hodl, -⟩ := s.gained_figures
  have hw := encodeOutput_traced_writes (s.gained_inlen.trans s.gained_srclen.symm)
    (by rw [s.gained_tlen, s.gained_alphabet]) (by rw [hcw, hcpb, s.gained_params])
    (by rw [hcw, hbpb, s.gained_params]) h
  rwa [hcw, hodl, s.gained_alphabet, s.gained_params, s.gained_sourceBytes, packedFile_eq_fileOf] at hw

/-- A source that passes the gain check is read twice and its file is written (R260). -/
theorem Encodable.encodeMain_traced_gain (h : Encodable s)
    (hgain : Spec.totoutOfText s.params s.sourceBytes < s.srclen.toNat) :
    ∃ t, Traced encodeMain s.freshSink (Spec.encodeEvents s.params s.sourceBytes) (.ok () t) ∧
      (∃ m len io, t = { s.gained with
        buf := t.buf, emitted := t.emitted, outMem := m, outlen := len, ioOutcomes := io }) ∧
      Writes s.gained (Spec.fileOf s.params s.sourceBytes) t ∧ t.emitted = s.srclen ∧
      t.buf = s.gained.lastBlock (s.srclen.toNat / (geometry s.params (Spec.widthOf s.sourceBytes)).1) := by
  obtain ⟨-, hcpb, hbpb, -, -⟩ := s.gained_figures
  obtain ⟨hw, hw7⟩ := Spec.widthOf_bounds s.sourceBytes
  have hmem : ∀ c ∈ s.gained.sourceBytes, c ∈ s.gained.alphabet := by
    rw [s.gained_alphabet, s.gained_sourceBytes, ← dedupList_scanCounts s.sourceBytes_length_lt]
    exact fun c hc => mem_dedupList_scanCounts h.ascii s.sourceBytes_length_lt hc
  have hok : Traced encodeGain s.beforeGain [] (.ok () s.gained) :=
    encodeGain_traced_gain (mt s.beforeGain_check.mp (Nat.not_le.mpr hgain))
  have hbytes : s.gained.bpb.toNat ≤ 8 := by rw [hbpb]; exact geometry_bytes_le s.params hw hw7
  obtain ⟨t, houtput, hemitted, hbuf⟩ :=
    encodeOutput_traced (s := s.gained) (s.gained_inlen.trans s.gained_srclen.symm) hmem hbytes
  refine ⟨t, ?_, encodeOutput_traced_frame houtput, State.gained_writes houtput, ?_, ?_⟩
  · rw [← s.gained_events]
    have hrest := hok.andThen (g := fun _ s4 => encodeOutput s4) houtput
    rw [List.nil_append] at hrest
    exact h.encodeMain_traced hrest
  · rw [hemitted, s.gained_emitted, s.gained_inlen, zero_add]
  · rw [hbuf, s.gained_inlen, hcpb]

/-! ### Every source (R306) -/

/-- The first byte above 127 of a text that is not ASCII. -/
theorem exists_first_nonAscii {text : List Byte} (h : ¬ isAscii text = true) :
    ∃ k, ∃ hk : k < text.length, isAscii (text.take k) = true ∧ 127 < text[k].toNat := by
  induction text with
  | nil => exact absurd rfl h
  | cons c text ih =>
    by_cases hc : c.toNat < 128
    · have hrest : ¬ isAscii text = true := by simpa [isAscii, hc] using h
      obtain ⟨k, hk, hascii, hbyte⟩ := ih hrest
      exact ⟨k + 1, Nat.succ_lt_succ hk, by simpa [isAscii, hc] using hascii, hbyte⟩
    · exact ⟨0, Nat.succ_pos _, rfl, Nat.lt_of_lt_of_le (Nat.lt_succ_self 127) (Nat.le_of_not_lt hc)⟩

/-- An ENCODE that aborts makes the first events of the format, with an error that is no IoFailure; the code is the one
the source calls for, and no event is an append. -/
theorem encodeMain_traced_of_error (h : (Spec.encodeText s.params s.sourceBytes).2 ≠ 0) :
    ∃ ev e t, Traced encodeMain s.freshSink ev (.raise e t) ∧ ev <+: Spec.encodeEvents s.params s.sourceBytes ∧
      e ∈ [.nonAsciiInput, .noGainAbort, .emptyInput, .inputTooLong] ∧
      e.code = (Spec.encodeText s.params s.sourceBytes).2 ∧ (Spec.encodeText s.params s.sourceBytes).1 = [] ∧
      ev.count true = 0 ∧ (ev = [] → s.srclen.toNat = 0 ∨ 2147483647 < s.srclen.toNat) := by
  have hreads {j : Nat} (hj : j ≤ s.srclen.toNat) :
      List.replicate j false <+: Spec.encodeEvents s.params s.sourceBytes := by
    rw [← s.gained_events, ← Nat.add_sub_cancel' hj, ← List.replicate_append_replicate, List.append_assoc]
    exact List.prefix_append _ _
  rw [Spec.encodeText] at h ⊢
  rw [s.sourceBytes_length] at h ⊢
  split_ifs at h ⊢ with hlong hascii hempty hgain
  · have hscan : Traced bodyScan s.freshSink [] (.raise .inputTooLong s.freshSink) :=
      .of_none (fun io => if_pos hlong) rfl
    exact ⟨[], _, _, encodeMain_traced_of_scan hscan, List.nil_prefix, by simp, rfl, rfl, rfl, fun _ => .inr hlong⟩
  · obtain ⟨k, hk, hfirst, hbyte⟩ := exists_first_nonAscii (text := s.sourceBytes) (by simpa using hascii)
    have hbyte' : 127 < (Memory.read s.inMem k).toNat := by
      simpa [State.sourceBytes, Memory.getElem_readList] using hbyte
    rw [s.sourceBytes_length] at hk
    have hscan := bodyScan_traced_nonAscii (s := s.freshSink) (Nat.le_of_not_lt hlong) hk hfirst hbyte'
    exact ⟨_, _, _, encodeMain_traced_of_scan hscan, hreads hk, by simp, rfl, rfl,
      List.count_replicate .., fun hev => nomatch hev⟩
  · obtain ⟨t, ht⟩ := encodeMain_traced_of_empty hempty
    exact ⟨[], _, t, ht, List.nil_prefix, by simp, rfl, rfl, rfl, fun _ => .inl hempty⟩
  · have hsource : Encodable s := ⟨by simpa using hascii, Nat.pos_of_ne_zero hempty, Nat.le_of_not_lt hlong⟩
    exact ⟨_, _, _, hsource.encodeMain_traced_no_gain hgain, hreads (Nat.le_refl _), by simp,
      rfl, rfl, List.count_replicate .., fun hev => .inl (List.replicate_eq_nil_iff _ |>.mp hev)⟩
  · exact absurd rfl h

/-- A source that calls for no error is one that is encoded. -/
theorem encodable_of_encodeText (h : (Spec.encodeText s.params s.sourceBytes).2 = 0) :
    Encodable s ∧ Spec.totoutOfText s.params s.sourceBytes < s.srclen.toNat ∧
      (Spec.encodeText s.params s.sourceBytes).1 = Spec.fileOf s.params s.sourceBytes := by
  rw [Spec.encodeText] at h ⊢
  rw [s.sourceBytes_length] at h ⊢
  split_ifs at h ⊢ with hlong hascii hempty hgain
  · exact absurd h (by decide)
  · exact absurd h (by decide)
  · exact absurd h (by decide)
  · exact absurd h (by decide)
  · exact ⟨⟨by simpa using hascii, Nat.pos_of_ne_zero hempty, Nat.le_of_not_lt hlong⟩, Nat.lt_of_not_le hgain, rfl⟩

end Sys2Proof.Machine
end

section
/-! SUPPORT. The end of ENCODE and DECODE (R270, R278, R90): the close, the comparison after it, the sink after an
IoFailure. -/

namespace Sys2Proof.Machine

variable {s t u : State} {io ev : List Bool} {e : ErrKind} {k n : Nat} {i : Instr}

/-! ### What the close and the sink leave alone -/

@[simp] theorem spoilSink_code (r : Res Unit) : (spoilSink r).code = r.code := by
  rcases r with _ | ⟨e, s⟩
  · rfl
  · cases e <;> rfl

theorem spoilSink_status (r : Res Unit) : (spoilSink r).state.status = r.state.status := by
  obtain ⟨m, d, h⟩ := spoilSink_frame r
  rw [h]

/-! ### A body that ends with the close -/

/-- ENCODE after its close (R270). -/
def encodeEnd (_ : Unit) (s : State) : Res Unit := .ok () (markOutput s)

/-- DECODE after its close (R278). -/
def decodeEnd (_ : Unit) (s : State) : Res Unit :=
  if s.emitted ≠ s.inlen then .raise .lengthMismatch s else .ok () (markOutput s)

/-- The close of a body that ended with `r`, and what comes after it. -/
def atClose (f : Unit → State → Res Unit) (r : Res Unit) : Res Unit := spoilSink ((closeSink r).andThen f)

theorem bodyEncode_eq (s : State) : bodyEncode s = atClose encodeEnd (encodeMain s) := rfl
theorem bodyDecode_eq (s : State) : bodyDecode s = atClose decodeEnd (decodeMain s) := rfl

/-! ### OUT_VALID and RESULT after a command (R36, R271, R279) -/

/-- What comes after the close sets OUT_VALID exactly when it succeeds. -/
def MarksSuccess (f : Unit → State → Res Unit) : Prop :=
  ∀ a s, s.status.outValid = false → (f a s).state.status.outValid = ((f a s).code == 0)

theorem encodeEnd_marksSuccess : MarksSuccess encodeEnd := fun _ _ _ => rfl

theorem decodeEnd_marksSuccess : MarksSuccess decodeEnd := by
  intro _ s hs
  rw [decodeEnd]
  split_ifs
  · exact hs
  · rfl

theorem atClose_outValid {f : Unit → State → Res Unit} (hf : MarksSuccess f) {r : Res Unit}
    (hr : r.state.status.outValid = false) :
    (atClose f r).state.status.outValid = ((atClose f r).code == 0) := by
  have hclose : (closeSink r).state.status.outValid = false := by rw [closeSink_state, ← hr]
  rw [atClose, spoilSink_status, spoilSink_code]
  cases h : closeSink r with
  | ok a t =>
    rw [h] at hclose
    exact hf a t hclose
  | raise e t =>
    rw [h] at hclose
    exact hclose.trans (beq_eq_false_iff_ne.mpr e.code_ne_zero).symm

/-- ENCODE leaves OUT_VALID cleared up to its close (R260). -/
theorem encodeMain_outValid (s : State) : (encodeMain s).state.status.outValid = false := by
  refine encodeMain_keeps (P := fun t => t.status.outValid = false) s rfl
    (fun u hu => ?_) (fun u hu => ?_) (fun u hu => ?_) (fun u hu => ?_) (fun u hu => ?_)
  · obtain ⟨f, len, io, fv, av, tv, h⟩ := bodyScan_writes u
    rw [h]; exact hu
  · obtain ⟨a, n, av, tv, h⟩ := bodyDedup_writes u
    rw [h]; exact hu
  · obtain ⟨nd, lf, r, nc, lc, tv, h⟩ := bodyTree_writes u
    rw [h]; exact hu
  · rw [encodeGain_frame]; exact hu
  · obtain ⟨b, em, m, len, io, h⟩ := encodeOutput_frame u
    rw [h]; exact hu

/-- DECODE leaves OUT_VALID cleared up to its close (R272). -/
theorem decodeMain_outValid (s : State) : (decodeMain s).state.status.outValid = false := by
  refine decodeMain_keeps (P := fun t => t.status.outValid = false) s rfl
    (fun u n pos acc hu => ?_) (fun u h hu => ?_) (fun u hu => ?_)
  · obtain ⟨io, h⟩ := readBytes_frame n pos acc u
    rw [h]; exact hu
  · obtain ⟨a, io, len, n, od, cw, cp, bp, av, cv, h⟩ := decodeHeader_writes h u
    rw [h]; exact hu
  · obtain ⟨b, em, m, len, io, h⟩ := decodeData_writes u
    rw [h]; exact hu

/-- ENCODE and DECODE set OUT_VALID exactly when they succeed. -/
theorem exec_outValid (hi : i = .encode ∨ i = .decode) (h : exec i s = .next t) :
    t.status.outValid = (t.errcode == 0) := by
  rw [← exec_eq_next_iff.mp h, epilogue_eq_finish]
  rcases hi with rfl | rfl
  · exact atClose_outValid encodeEnd_marksSuccess (encodeMain_outValid _)
  · exact atClose_outValid decodeEnd_marksSuccess (decodeMain_outValid _)

/-- A body that aborts leaves RESULT as it found it: those that can write it test first. -/
theorem body_result_of_raise (h : i.body s = .raise e t) : t.result = s.result := by
  by_cases hm : i.mnemonic ∈ [.getbit, .getidx, .width, .geom, .lookup, .clear]
  · cases i with
    | getbit a => simp only [Instr.body, bodyGetbit] at h; split_ifs at h; cases h; rfl
    | getidx a => simp only [Instr.body, bodyGetidx] at h; split_ifs at h <;> cases h <;> rfl
    | width a => simp only [Instr.body, bodyWidth] at h; split_ifs at h; cases h; rfl
    | geom a => simp only [Instr.body, bodyGeom] at h; split_ifs at h; cases h; rfl
    | clear => cases h
    | lookup a =>
      simp only [Instr.body, bodyLookup] at h
      split_ifs at h
      · cases h; rfl
      · cases hlookup : lookupIndex s.alphabet a <;> rw [hlookup] at h <;> cases h
        rfl
    | _ => simp [Instr.mnemonic] at hm
  · have hkeep := body_keeps (i := i) (s := s) State.result fun _ => if_neg hm
    rwa [h] at hkeep

/-- Settles O18: the bodies that write RESULT test first, and OUT_VALID is cleared at the start and set at the end. -/
theorem abortKeepsResultAndInvalidatesOutput : Obligations.AbortKeepsResultAndInvalidatesOutput := by
  refine fun i s t h => ⟨fun hcode => ?_, fun hi => exec_outValid hi h⟩
  obtain rfl := exec_eq_next_iff.mp h
  cases hbody : i.body (prologue s) with
  | ok a u => exact absurd (by rw [hbody]; rfl) hcode
  | raise e u =>
    have hresult := body_result_of_raise hbody
    exact hresult

/-! ### The events of a body that ends with the close -/

/-- The close events whose failure ends a body with IoFailure: on success, not on an error exit (R270, R278). -/
def Res.closes : Res Unit → Nat
  | .ok _ _ => 1
  | .raise _ _ => 0

/-- The body makes the events `ev` and a close, true for an append, and ends with `r` if the host fails none of them; if
it fails one, but for the close of an error exit, the body ends with IoFailure, and OUTLEN counts the appends before that
event (R90, R270, R278). -/
structure Closed (body : State → Res Unit) (s : State) (ev : List Bool) (r : Res Unit) : Prop where
  runs : ∀ io, IoOk io (ev.length + r.closes) → body (s.withIo io) = r.withIo (io.drop (ev.length + 1))
  fails : ∀ io k, k < ev.length + r.closes → IoOk io k → io[k]? = some true → ∃ u,
    body (s.withIo io) = .raise .ioFailure u ∧ u.outlen = BitVec.ofNat 32 (Spec.appendsIn ev k)
  appends : r.state.outlen = BitVec.ofNat 32 (ev.count true)
  no_failure : r.code ≠ ErrKind.ioFailure.code

/-- An IoFailure before the close passes it. -/
theorem atClose_ioFailure (f : Unit → State → Res Unit) (s : State) :
    ∃ u, atClose f (.raise .ioFailure s) = .raise .ioFailure u ∧ u.outlen = s.outlen := by
  rw [atClose, closeSink_raise, Res.andThen_raise]
  exact ⟨_, rfl, rfl⟩

/-- A close that fails (R90). -/
theorem atClose_of_close_fails (f : Unit → State → Res Unit) (h : s.ioOutcomes.headD false = true) :
    ∃ u, atClose f (.ok () s) = .raise .ioFailure u ∧ u.outlen = s.outlen := by
  rw [atClose, closeSink_ok, if_pos h, Res.andThen_raise]
  exact ⟨_, rfl, rfl⟩

theorem atClose_of_ok (f : Unit → State → Res Unit) (h : s.ioOutcomes.headD false = false)
    (hf : f () (s.withIo s.ioOutcomes.tail) = .ok () t) : atClose f (.ok () s) = .ok () t := by
  rw [atClose, closeSink_ok, h, if_neg (by decide), Res.andThen_ok]
  exact congrArg spoilSink hf

variable {main : State → Res Unit} {f : Unit → State → Res Unit} {start : State}

/-- A body that reaches its close without an error, and then succeeds. -/
theorem Traced.closed (h : Traced main start ev (.ok () t)) (hlen : start.outlen = 0)
    (hf : ∀ io, f () (t.withIo io) = .ok () (markOutput (t.withIo io)))
    (hstart : ∀ io, main (s.withIo io) = main (start.withIo io)) :
    Closed (fun s => atClose f (main s)) s ev (.ok () (markOutput t)) where
  runs io hio := by
    obtain ⟨hev, hclose⟩ := ioOk_add.mp hio
    rw [hstart, h.runs io hev]
    refine atClose_of_ok f (IoOk.headD (n := 0) hclose) ?_
    rw [show (t.withIo (io.drop ev.length)).withIo _ = t.withIo (io.drop (ev.length + 1)) by
      rw [State.withIo_withIo, State.withIo_ioOutcomes, List.tail_drop], hf]
    rfl
  fails io k hk hio hfail := by
    rw [hstart]
    rcases Nat.lt_succ_iff_lt_or_eq.mp hk with hlt | rfl
    · obtain ⟨u, hu, houtlen⟩ := h.fails io k hlt hio hfail
      obtain ⟨v, hv, hvlen⟩ := atClose_ioFailure f u
      exact ⟨v, by rw [hu, hv], by rw [hvlen, houtlen, hlen, zero_add]⟩
    · have hhead : (t.withIo (io.drop ev.length)).ioOutcomes.headD false = true :=
        headD_of_getElem? (by rw [State.withIo_ioOutcomes, List.getElem?_drop, Nat.add_zero, hfail])
      obtain ⟨v, hv, hvlen⟩ := atClose_of_close_fails f hhead
      have happends : t.outlen = start.outlen + BitVec.ofNat 32 (ev.count true) := h.appends
      refine ⟨v, by rw [h.runs io hio]; exact hv, ?_⟩
      rw [hvlen, Spec.appendsIn, List.take_length]
      exact happends.trans (by rw [hlen, zero_add])
  appends := by
    have happends : t.outlen = start.outlen + BitVec.ofNat 32 (ev.count true) := h.appends
    exact happends.trans (by rw [hlen, zero_add])
  no_failure := (ErrKind.code_ne_zero _).symm

/-- A body that ends with an error before its close. -/
theorem Traced.closed_raise (h : Traced main start ev (.raise e t)) (hlen : start.outlen = 0) (he : e ≠ .ioFailure)
    (hstart : ∀ io, main (s.withIo io) = main (start.withIo io)) :
    Closed (fun s => atClose f (main s)) s ev (.raise e t) where
  runs io hio := by
    rw [hstart, h.runs io hio]
    exact (sink_of_raise he f).trans (by rw [Res.withIo, ← List.drop_drop]; rfl)
  fails io k hk hio hfail := by
    obtain ⟨u, hu, houtlen⟩ := h.fails io k hk hio hfail
    obtain ⟨v, hv, hvlen⟩ := atClose_ioFailure f u
    exact ⟨v, by rw [hstart, hu, hv], by rw [hvlen, houtlen, hlen, zero_add]⟩
  appends := by rw [h.appends, hlen, zero_add]
  no_failure := fun hcode => he (ErrKind.code_injective hcode)

/-- However the host chooses, the body ends with `r` or with IoFailure. -/
theorem Closed.end_cases {body : State → Res Unit} {r : Res Unit} (h : Closed body s ev r) :
    (∃ io, body s = r.withIo io) ∨ ∃ u, body s = .raise .ioFailure u := by
  rcases ioOk_or_first_failure s.ioOutcomes (ev.length + r.closes) with hok | ⟨k, hk, hok, hfail⟩
  · exact .inl ⟨_, h.runs s.ioOutcomes hok⟩
  · obtain ⟨u, hu, -⟩ := h.fails s.ioOutcomes k hk hok hfail
    exact .inr ⟨u, hu⟩

@[simp] theorem Res.withIo_code (r : Res Unit) (io : List Bool) : (r.withIo io).code = r.code := by cases r <;> rfl

theorem Closed.code_cases {body : State → Res Unit} {r : Res Unit} (h : Closed body s ev r) :
    (body s).code = r.code ∨ (body s).code = ErrKind.ioFailure.code := by
  rcases h.end_cases with ⟨io, hio⟩ | ⟨u, hu⟩
  · exact .inl (by rw [hio, Res.withIo_code])
  · exact .inr (by rw [hu]; rfl)

end Sys2Proof.Machine
end

section
/-! ENCODE (R260 to R271): the code and the output of every source, the state after a successful ENCODE, the codes it
can end with. -/

namespace Sys2Proof.Machine

variable {s t u : State} {io ev : List Bool} {e : ErrKind} {k n : Nat} {i : Instr} {r : Res Unit}

/-! ### The file of a text and the events that write it -/

theorem Spec.alphabetOf_length_le (text : List Byte) : (Spec.alphabetOf text).length ≤ 128 :=
  (List.length_filter_le _ _).trans (by simp)

/-- Header, Alphabet, blocks and tail (R281). -/
theorem Spec.fileOf_length (p : Params) (text : List Byte) :
    (Spec.fileOf p text).length = 16 + (Spec.alphabetOf text).length +
      text.length / (geometry p (Spec.widthOf text)).1 * (geometry p (Spec.widthOf text)).2 +
        text.length % (geometry p (Spec.widthOf text)).1 := by
  obtain ⟨hw, hw7⟩ := Spec.widthOf_bounds text
  rw [← packedFile_eq_fileOf, packedFile_length _ hw hw7]

theorem Spec.fileOf_length_lt {p : Params} {text : List Byte} (h : text.length ≤ 2147483647) :
    (Spec.fileOf p text).length < 2 ^ 32 := by
  obtain ⟨hw, hw7⟩ := Spec.widthOf_bounds text
  have hle := packedFile_length_le (prm := p) (alphabet := Spec.alphabetOf text) (text := text)
    (Spec.odlOfText p text) hw hw7
  have halphabet := Spec.alphabetOf_length_le text
  rw [packedFile_eq_fileOf] at hle
  omega

theorem Spec.tailEvents_length (n : Nat) : (Spec.tailEvents n).length = 2 * n := by
  simp [Spec.tailEvents, Nat.mul_comm]

theorem Spec.tailEvents_count (n : Nat) : (Spec.tailEvents n).count true = n := by
  simp [Spec.tailEvents, List.count_flatten]

theorem blockEvents_length (n c b : Nat) : (List.replicate n (blockEvents c b)).flatten.length = n * (c + b) := by
  simp [blockEvents]

theorem blockEvents_count (n c b : Nat) : (List.replicate n (blockEvents c b)).flatten.count true = n * b := by
  simp [blockEvents, List.count_flatten, List.count_append, List.count_replicate]

/-- ENCODE appends the bytes of the file (R260). -/
theorem Spec.encodeEvents_count (p : Params) (text : List Byte) :
    (Spec.encodeEvents p text).count true = (Spec.fileOf p text).length := by
  have hblocks := blockEvents_count (text.length / (geometry p (Spec.widthOf text)).1)
    (geometry p (Spec.widthOf text)).1 (geometry p (Spec.widthOf text)).2
  rw [blockEvents] at hblocks
  simp only [Spec.encodeEvents, List.count_append, hblocks, Spec.tailEvents_count, List.count_replicate, beq_self_eq_true,
    if_true, Spec.fileOf_length]
  simp

/-- ENCODE reads the source twice and appends the bytes of the file (R260). -/
theorem Spec.encodeEvents_length (p : Params) (text : List Byte) :
    (Spec.encodeEvents p text).length = 2 * text.length + (Spec.fileOf p text).length := by
  have hblocks := blockEvents_length (text.length / (geometry p (Spec.widthOf text)).1)
    (geometry p (Spec.widthOf text)).1 (geometry p (Spec.widthOf text)).2
  have htail := Nat.div_add_mod' text.length (geometry p (Spec.widthOf text)).1
  rw [blockEvents, Nat.mul_add] at hblocks
  simp only [Spec.encodeEvents, List.length_append, hblocks, Spec.tailEvents_length, List.length_replicate,
    Spec.fileOf_length]
  omega

/-! ### ENCODE with its close -/

/-- The codes a source can call for (R306). -/
theorem Spec.encodeText_code (p : Params) (text : List Byte) :
    (Spec.encodeText p text).2 ∈ [0x00#8, 0x01#8, 0x03#8, 0x09#8, 0x0A#8] := by
  rw [Spec.encodeText]
  split_ifs <;> simp

/-- What ENCODE does in every state: the events of its body and its end. -/
structure EncodeRun (s : State) (ev : List Bool) (r : Res Unit) : Prop where
  closed : Closed bodyEncode s ev r
  isPrefix : ev <+: Spec.encodeEvents s.params s.sourceBytes
  code : r.code = (Spec.encodeText s.params s.sourceBytes).2
  of_error : r.code ≠ 0 → r.state.outlen = 0
  appends_lt : ev.count true < 2 ^ 32
  has_event : 1 ≤ s.srclen.toNat → s.srclen.toNat ≤ 2147483647 → 0 < ev.length + r.closes

theorem encodeMain_freshSink (s : State) : encodeMain s = encodeMain s.freshSink := rfl

theorem encodeRun_of_error (h : (Spec.encodeText s.params s.sourceBytes).2 ≠ 0) : ∃ ev r, EncodeRun s ev r := by
  obtain ⟨ev, e, t, hmain, hprefix, he, hcode, -, hcount, hnil⟩ := encodeMain_traced_of_error h
  have hclosed : Closed bodyEncode s ev (.raise e t) := hmain.closed_raise (f := encodeEnd) rfl
    (by rintro rfl; simp at he) fun io => encodeMain_freshSink _
  refine ⟨ev, _, hclosed, hprefix, hcode, fun _ => ?_, hcount.trans_lt (Nat.two_pow_pos 32),
    fun hpos hle => ?_⟩
  · rw [hclosed.appends, hcount]
    rfl
  · have hne : ev ≠ [] := fun hev => by
      rcases hnil hev with h0 | hlong <;> omega
    exact Nat.add_pos_left (List.length_pos_of_ne_nil hne) _

/-- A source that is encoded. -/
theorem encodeRun_of_gain (h : Encodable s) (hgain : Spec.totoutOfText s.params s.sourceBytes < s.srclen.toNat) :
    ∃ t, EncodeRun s (Spec.encodeEvents s.params s.sourceBytes) (.ok () (markOutput t)) ∧
      (∃ m len io, t = { s.gained with
        buf := t.buf, emitted := t.emitted, outMem := m, outlen := len, ioOutcomes := io }) ∧
      Writes s.gained (Spec.fileOf s.params s.sourceBytes) t ∧ t.emitted = s.srclen ∧
      t.buf = s.gained.lastBlock (s.srclen.toNat / (geometry s.params (Spec.widthOf s.sourceBytes)).1) := by
  obtain ⟨t, hmain, hrest⟩ := h.encodeMain_traced_gain hgain
  refine ⟨t, ⟨?_, List.prefix_refl _, ?_, fun hcode => absurd rfl hcode, ?_, fun _ _ => Nat.succ_pos _⟩, hrest⟩
  · exact hmain.closed (f := encodeEnd) rfl (fun _ => rfl) fun io => encodeMain_freshSink _
  · rw [Spec.encodeText, s.sourceBytes_length, if_neg (Nat.not_lt.mpr h.le_max), h.ascii, if_neg (by decide),
      if_neg (Nat.ne_of_gt h.nonempty), if_neg (Nat.not_le.mpr hgain)]
    rfl
  · rw [Spec.encodeEvents_count]
    exact Spec.fileOf_length_lt (s.sourceBytes_length ▸ h.le_max)

theorem encodeRun_of_success (h : (Spec.encodeText s.params s.sourceBytes).2 = 0) :
    ∃ r, EncodeRun s (Spec.encodeEvents s.params s.sourceBytes) r := by
  obtain ⟨hsource, hgain, -⟩ := encodable_of_encodeText h
  obtain ⟨t, hrun, -⟩ := encodeRun_of_gain hsource hgain
  exact ⟨_, hrun⟩

theorem exists_encodeRun (s : State) : ∃ ev r, EncodeRun s ev r := by
  by_cases h : (Spec.encodeText s.params s.sourceBytes).2 = 0
  · exact ⟨_, encodeRun_of_success h⟩
  · exact encodeRun_of_error h

/-- The codes of ENCODE: those a source can call for, and IoFailure. -/
theorem bodyEncode_code (s : State) : (bodyEncode s).code ∈ [0x00#8, 0x01#8, 0x03#8, 0x09#8, 0x0A#8, 0x06#8] := by
  obtain ⟨ev, r, hrun⟩ := exists_encodeRun s
  rcases hrun.closed.code_cases with hcode | hcode
  · rw [hcode, hrun.code]
    exact List.mem_append_left [0x06#8] (Spec.encodeText_code ..)
  · rw [hcode]
    decide

/-- Settles O47: the codes of ENCODE. -/
theorem encodeNeverMissesACharacter : Obligations.EncodeNeverMissesACharacter := by
  intro s t h
  have hcode := bodyEncode_code (prologue s)
  have herrcode : t.errcode = (bodyEncode (prologue s)).code := by
    rw [← exec_eq_next_iff.mp h, epilogue_errcode]
    rfl
  rw [← herrcode] at hcode
  refine ⟨?_, ?_, ?_⟩ <;> (intro hbad; rw [hbad] at hcode; exact absurd hcode (by decide))

/-! ### No failed event -/

/-- A command whose body ends with the close, when the host fails no event. -/
theorem exec_of_closed (h : Closed i.body (prologue s) ev r) (hio : s.noIoFailure = true) :
    exec i s = .next ((r.state.withIo (s.ioOutcomes.drop (ev.length + 1))).finish r.code) := by
  have hrun := h.runs s.ioOutcomes (State.noIoFailure.ioOk hio _)
  have hbody : i.body (prologue s) = r.withIo (s.ioOutcomes.drop (ev.length + 1)) := hrun
  rw [exec_eq, hbody]
  cases r <;> rfl

theorem State.outputBytes_of_outlen (h : s.outlen = 0) : s.outputBytes = [] := by
  rw [State.outputBytes, h]; rfl

theorem Spec.encodeText_output_of_error {p : Params} {text : List Byte} (h : (Spec.encodeText p text).2 ≠ 0) :
    (Spec.encodeText p text).1 = [] := by
  rw [Spec.encodeText] at h ⊢
  split_ifs at h ⊢
  · rfl
  · rfl
  · rfl
  · rfl
  · exact absurd rfl h

/-- Settles O44: the source calls for an error and nothing is appended, or its file is. -/
theorem encodeFollowsTheFormat : Obligations.EncodeFollowsTheFormat := by
  intro s hwf hio
  by_cases h : (Spec.encodeText s.params s.sourceBytes).2 = 0
  · obtain ⟨hsource, hgain, hfile⟩ := encodable_of_encodeText (s := prologue s) h
    obtain ⟨t, hrun, -, hwrites, -⟩ := encodeRun_of_gain hsource hgain
    have hexec := exec_of_closed (i := .encode) hrun.closed hio
    refine ⟨_, hexec, hrun.code, ?_, (exec_outValid (.inl rfl) hexec).trans (congrArg (· == 0) hrun.code)⟩
    have hbytes := hwrites.output (prologue s).gained_outlen (by rw [(prologue s).gained_outMem]; exact hwf)
      (Spec.fileOf_length_lt ((prologue s).sourceBytes_length ▸ hsource.le_max))
    exact hbytes.1.trans hfile.symm
  · obtain ⟨ev, r, hrun⟩ := encodeRun_of_error (s := prologue s) h
    have hexec := exec_of_closed (i := .encode) hrun.closed hio
    refine ⟨_, hexec, hrun.code, ?_, (exec_outValid (.inl rfl) hexec).trans (congrArg (· == 0) hrun.code)⟩
    rw [Spec.encodeText_output_of_error h]
    exact State.outputBytes_of_outlen (hrun.of_error (hrun.code ▸ h))

end Sys2Proof.Machine
end

section
/-! ENCODE completes (R260): every register and memory after it. -/

namespace Sys2Proof.Machine

variable {s t : State} {ev : List Bool} {k n c : Nat}

/-! ### The state in which ENCODE begins its output -/

/-- What TREE and the gain check leave alone is in the output as DEDUP left it. -/
theorem State.gained_keeps_dedup {α : Type} (s : State) (f : State → α) (htree : ∀ u : State, f u.withTree = f u)
    (hgain : ∀ u : State, f u.withGain = f u) : f s.gained = f s.freshSink.withScan.withDedup :=
  (hgain _).trans (htree _)

theorem State.gained_freq (s : State) : s.gained.freq = Spec.scanCounts s.sourceBytes :=
  (s.gained_keeps State.freq (fun _ => rfl) (fun _ => rfl) fun _ => rfl).trans s.withScan_freq

theorem State.gained_buf (s : State) : s.gained.buf = s.buf :=
  s.gained_keeps State.buf (fun _ => rfl) (fun _ => rfl) fun _ => rfl

theorem State.withScan_status (s : State) : s.withScan.status = { s.status.scanStart with freqValid := true } := rfl
theorem State.withDedup_status (s : State) : s.withDedup.status = { s.status.dedupStart with alphaValid := true } := rfl
theorem State.withTree_status (s : State) : s.withTree.status = { s.status with treeValid := true } := rfl
theorem State.withGain_status (s : State) : s.withGain.status = { s.status with cfgValid := true } := rfl

theorem State.gained_status (s : State) : s.gained.status = { s.status with
    outValid := false, freqValid := true, alphaValid := true, treeValid := true, cfgValid := true } := by
  rw [State.gained, State.withGain_status, State.beforeGain, State.withTree_status, State.withDedup_status,
    State.withScan_status]
  rfl

/-- Entries of ALPHA past the Alphabet stay. -/
theorem State.withDedup_alpha_outside (s : State) (hk : (dedupList s.freq).length ≤ k) :
    s.withDedup.alpha[k]? = s.alpha[k]? :=
  writeFrom_outside _ _ _ (.inr (by rwa [Nat.zero_add]))

theorem State.withScan_alpha (s : State) : s.freshSink.withScan.alpha = s.alpha := rfl
theorem State.withScan_node (s : State) : s.freshSink.withScan.node = s.node := rfl
theorem State.withScan_leaf (s : State) : s.freshSink.withScan.leaf = s.leaf := rfl
theorem State.withDedup_node (s : State) : s.withDedup.node = s.node := rfl
theorem State.withDedup_leaf (s : State) : s.withDedup.leaf = s.leaf := rfl

theorem State.gained_alpha_outside (s : State) (hk : (Spec.alphabetOf s.sourceBytes).length ≤ k) :
    s.gained.alpha[k]? = s.alpha[k]? := by
  rw [← dedupList_scanCounts s.sourceBytes_length_lt, ← s.withScan_freq] at hk
  rw [s.gained_keeps_dedup State.alpha (fun _ => rfl) fun _ => rfl, State.withDedup_alpha_outside _ hk, s.withScan_alpha]

section
variable (hpos : 1 ≤ s.tlen.toNat) (hn : s.tlen.toNat ≤ 128)
include hpos hn

/-- Entries of NODE past the tree stay. -/
theorem State.withTree_node_outside (hk : 2 * s.tlen.toNat - 1 ≤ k) : s.withTree.node[k]? = s.node[k]? := by
  have hlen := State.alphabet_length hn
  exact writeFrom_outside _ _ _ (.inr (by rw [buildTree_length s.freq (hlen ▸ hpos)]; omega))

/-- Entries of LEAF past the leaf report stay. -/
theorem State.withTree_leaf_outside (hk : s.tlen.toNat ≤ k) : s.withTree.leaf[k]? = s.leaf[k]? := by
  have hlen := State.alphabet_length hn
  have hleaves := (treeLeaves_perm s.freq (hlen ▸ hpos) (hlen ▸ hn)).length_eq
  exact writeFrom_outside _ _ _ (.inr (by omega))

end

theorem State.withScan_withDedup_tlen (s : State) :
    s.freshSink.withScan.withDedup.tlen.toNat = (Spec.alphabetOf s.sourceBytes).length := by
  rw [State.withDedup_tlen, s.withScan_freq, dedupList_scanCounts s.sourceBytes_length_lt]

/-- NODE, LEAF and the tree registers hold the tree of the source (R245). -/
theorem Encodable.gained_tree (h : Encodable s) :
    s.gained.TreeTables ∧ s.gained.leafcount = s.gained.tlen ∧
      (∀ k, 2 * s.gained.tlen.toNat - 1 ≤ k → s.gained.node[k]? = s.node[k]?) ∧
      ∀ k, s.gained.tlen.toNat ≤ k → s.gained.leaf[k]? = s.leaf[k]? := by
  have htlen := s.withScan_withDedup_tlen
  obtain ⟨hpos, hn⟩ := h.alphabetOf_length
  rw [← htlen] at hpos hn
  have hgain : s.gained = s.freshSink.withScan.withDedup.withTree.withGain := rfl
  have htables : ∀ u : State, u.withGain.TreeTables = u.TreeTables := fun _ => rfl
  have hcount : ∀ u : State, u.withTree.withGain.leafcount = u.withTree.withGain.tlen := fun _ => rfl
  have hnode : ∀ u : State, u.withGain.node = u.node := fun _ => rfl
  have hleaf : ∀ u : State, u.withGain.leaf = u.leaf := fun _ => rfl
  rw [s.gained_tlen, ← htlen, hgain]
  refine ⟨?_, hcount _, fun k hk => ?_, fun k hk => ?_⟩
  · rw [htables]
    exact State.withTree_treeTables hpos hn
  · rw [hnode, State.withTree_node_outside hpos hn hk, State.withDedup_node, s.withScan_node]
  · rw [hleaf, State.withTree_leaf_outside hpos hn hk, State.withDedup_leaf, s.withScan_leaf]

/-! ### The last block (R268) -/

/-- A full chunk of the source. -/
theorem State.chunk_sourceBytes (s : State) (hk : (k + 1) * c ≤ s.srclen.toNat) :
    Spec.chunk s.sourceBytes c k = Memory.readList s.inMem (k * c) c := by
  rw [Nat.succ_mul] at hk
  rw [Spec.chunk, State.sourceBytes, ← Nat.add_sub_cancel' hk, Memory.readList_add, Memory.readList_add, Nat.zero_add,
    List.append_assoc, List.drop_left' (Memory.readList_length ..), List.take_left' (Memory.readList_length ..)]

/-- BUF after the output holds the format's block of the last full chunk (R122). -/
theorem State.gained_lastBlock (s : State)
    (hn : 0 < s.srclen.toNat / (geometry s.params (Spec.widthOf s.sourceBytes)).1) :
    (s.gained.lastBlock (s.srclen.toNat / (geometry s.params (Spec.widthOf s.sourceBytes)).1)).toList =
      Spec.packBlock s.params.idxOrder (Spec.widthOf s.sourceBytes) 8
        ((Spec.chunk s.sourceBytes (geometry s.params (Spec.widthOf s.sourceBytes)).1
          (s.srclen.toNat / (geometry s.params (Spec.widthOf s.sourceBytes)).1 - 1)).map
            (Spec.indexOf (Spec.alphabetOf s.sourceBytes))) := by
  obtain ⟨hw, hw7⟩ := Spec.widthOf_bounds s.sourceBytes
  obtain ⟨hcw, hcpb, -, -, -⟩ := s.gained_figures
  have hfields := geometry_fields s.params hw hw7
  have hbytes := geometry_bytes_le s.params hw hw7
  have hle := Nat.div_mul_le_self s.srclen.toNat (geometry s.params (Spec.widthOf s.sourceBytes)).1
  rw [State.lastBlock, if_neg (Nat.ne_of_gt hn), State.packedChunk, State.sourceIndices, hcw, hcpb, s.gained_params,
    s.gained_inMem, s.gained_alphabet, s.chunk_sourceBytes (by rwa [Nat.sub_add_cancel hn])]
  refine packIndices_toList ?_
  rw [List.length_map, Memory.readList_length]
  omega

/-! ### The end -/

/-- Positions of OUT past the bytes appended stay. -/
theorem Writes.read_outside {bs : List Byte} {pos : Nat} (h : Writes s bs t) (h0 : s.outlen = 0)
    (hlen : bs.length < 2 ^ 32) (hpos : bs.length ≤ pos) : Memory.read t.outMem pos = Memory.read s.outMem pos := by
  have hsink := h.sink
  rw [h0, sinkAfter_eq s.outMem 0 bs (by simpa using hlen)] at hsink
  rw [show t.outMem = Memory.writeList s.outMem 0 bs from congrArg Prod.fst hsink]
  exact Memory.read_writeList_outside (.inr (by simpa using hpos))

/-- Settles O45: the checks leave the figures of the source in the registers, the output its file in OUT. -/
theorem encodeCompletes : Obligations.EncodeCompletes := by
  intro s hwf hio hpos hle hascii hgain text w g file
  have hsource : Encodable (prologue s) := ⟨hascii, hpos, hle⟩
  obtain ⟨t, hrun, ⟨m, len, io, hframe⟩, hwrites, hemitted, hbuf⟩ := encodeRun_of_gain hsource hgain
  have hexec := exec_of_closed (i := .encode) hrun.closed hio
  obtain ⟨v, hv⟩ : ∃ v, v = ((markOutput t).withIo
    (s.ioOutcomes.drop ((Spec.encodeEvents s.params s.sourceBytes).length + 1))).finish 0 := ⟨_, rfl⟩
  have hw : Writes (prologue s).gained file v := hv ▸ ⟨hwrites.setup, hwrites.sink⟩
  have htext : text.length ≤ 2147483647 := s.sourceBytes_length.trans_le hle
  have hfile := Spec.fileOf_length_lt (p := s.params) htext
  obtain ⟨hbytes, houtlen⟩ := hw.output (prologue s).gained_outlen (by rw [(prologue s).gained_outMem]; exact hwf) hfile
  obtain ⟨hcw, hcpb, hbpb, hodl, htotout⟩ := (prologue s).gained_figures
  obtain ⟨htables, hleafcount, hnode, hleaf⟩ := hsource.gained_tree
  have hstatus : t.status = (prologue s).gained.status := by
    rw [hframe]
  have hvstatus : v.status = { (prologue s).gained.status with
      busy := false, done := true, err := false, outValid := true } := by
    rw [hv, ← hstatus]
    simp [State.finish, Status.finish, State.withIo, markOutput]
  have halphabet : v.alphabet = Spec.alphabetOf text := hw.alphabet_eq.trans (prologue s).gained_alphabet
  have htlen : v.tlen.toNat = (Spec.alphabetOf text).length := by rw [hw.tlen]; exact (prologue s).gained_tlen
  have htotal : Spec.totoutOfText s.params text < 2 ^ 32 := hgain.trans s.srclen.isLt
  have hlen : text.length = s.srclen.toNat := s.sourceBytes_length
  rw [(prologue s).gained_status] at hvstatus
  obtain ⟨⟨hsrclen, hinMem, hparams, hhost, hread⟩, hresult, -⟩ := commandsWriteOnlyTheirState .encode s v (hv ▸ hexec)
  refine ⟨v, hv ▸ hexec, by rw [hv]; rfl, hvstatus, hbytes, ?_, fun pos hpos => ?_, ?_, ?_, halphabet, fun k hk => ?_,
    htlen, ?_, ?_, fun k hk => ?_, fun k hk => ?_, ?_, ?_, ?_, ?_, ?_, ?_, fun hn => ?_, fun hn => ?_, ?_,
    hresult (by decide), hsrclen, hinMem, hparams, hhost, hread, ?_⟩
  · rw [houtlen]
    exact Nat.mod_eq_of_lt hfile
  · rw [hw.read_outside (prologue s).gained_outlen hfile hpos, (prologue s).gained_outMem]
    rfl
  · exact (hw.keeps State.freq fun _ => rfl).trans (prologue s).gained_freq
  · exact hw.inlen.trans (prologue s).gained_inlen
  · rw [hw.keeps State.alpha fun _ => rfl]
    exact (prologue s).gained_alpha_outside hk
  · exact (hw.keeps State.TreeTables fun _ => rfl).mpr htables
  · rw [hw.keeps State.leafcount fun _ => rfl, hleafcount, hw.tlen]
  · rw [hw.tlen] at hk
    rw [hw.keeps State.node fun _ => rfl]
    exact hnode k hk
  · rw [hw.tlen] at hk
    rw [hw.keeps State.leaf fun _ => rfl]
    exact hleaf k hk
  · rw [hw.cw]
    exact hcw
  · rw [hw.cpb]
    exact hcpb
  · rw [hw.bpb]
    exact hbpb
  · rw [hw.odl]
    exact hodl
  · rw [hw.totout, htotout]
    exact Nat.mod_eq_of_lt htotal
  · rw [hv]
    exact hemitted
  · rw [hlen] at hn
    rw [hv]
    exact hbuf.trans ((if_pos hn).trans (prologue s).gained_buf)
  · rw [hlen] at hn ⊢
    rw [hv]
    exact (congrArg Vector.toList hbuf).trans ((prologue s).gained_lastBlock hn)
  · rw [hv, Spec.encodeEvents_length]
    rfl
  · exact (hw.keeps State.draws fun _ => rfl).trans
      ((prologue s).gained_keeps State.draws (fun _ => rfl) (fun _ => rfl) fun _ => rfl)

end Sys2Proof.Machine
end

section
/-! SUPPORT. A packed block as DECODE reads it (R85, R86, R122, R276): the indices that stand in the bits of its bytes. -/

namespace Sys2Proof.Machine

variable {o : IdxOrder} {prm : Params} {buf : Vector Byte 8} {bits : List Bool} {data : List Byte} {c i j k n p w : Nat}

/-! ### The number a field's bits stand for (R86) -/

/-- Bits weighted from the most significant one on are gathered one after the other. -/
theorem sum_bits_eq_foldl (f : Nat → Bool) (n : Nat) :
    ((List.range n).map fun j => (f j).toNat * 2 ^ (n - 1 - j)).sum =
      (List.range n).foldl (fun acc i => 2 * acc + (f i).toNat) 0 := by
  induction n with
  | zero => rfl
  | succ n ih =>
    have hdouble : (List.range n).map (fun j => (f j).toNat * 2 ^ (n + 1 - 1 - j)) =
        (List.range n).map fun j => 2 * ((f j).toNat * 2 ^ (n - 1 - j)) := by
      refine List.map_congr_left fun j hj => ?_
      have hj : j < n := List.mem_range.mp hj
      rw [show n + 1 - 1 - j = n - 1 - j + 1 by omega, Nat.pow_succ]
      ring
    rw [List.range_succ, List.map_append, List.sum_append, List.foldl_append, hdouble, List.sum_map_mul_left, ih]
    simp

/-- The bits of a number whose bits are weighted from the least significant one on. -/
theorem testBit_sum_bits (f : Nat → Bool) (n k : Nat) :
    ((List.range n).map fun j => (f j).toNat * 2 ^ j).sum.testBit k = (decide (k < n) && f k) := by
  induction n generalizing f k with
  | zero => simp
  | succ n ih =>
    have hhalves : ((List.range (n + 1)).map fun j => (f j).toNat * 2 ^ j).sum =
        (f 0).toNat + 2 * ((List.range n).map fun j => (f (j + 1)).toNat * 2 ^ j).sum := by
      rw [List.range_succ_eq_map, List.map_cons, List.sum_cons, List.map_map, ← List.sum_map_mul_left]
      refine congrArg₂ (· + ·) (by simp) (congrArg List.sum (List.map_congr_left fun j _ => ?_))
      rw [Function.comp_apply, Nat.pow_succ]
      ring
    have hbit := Bool.toNat_lt (f 0)
    rw [hhalves]
    cases k with
    | zero => cases hf : f 0 <;> simp [Nat.testBit_zero, Nat.add_mod]
    | succ k =>
      rw [Nat.testBit_succ, Nat.add_mul_div_left _ _ Nat.two_pos, Nat.div_eq_of_lt (by omega), Nat.zero_add,
        ih fun j => f (j + 1)]
      simp

/-- Bit `k` of the number that a field's bits stand for. -/
theorem testBit_indexOfBits (o : IdxOrder) (w : Nat) (bits : List Bool) (k : Nat) :
    (Spec.indexOfBits o w bits).testBit k = (decide (k < w) && bits[fieldWeight o w k]?.getD false) := by
  cases o with
  | msbFirst =>
    rw [Spec.indexOfBits, sum_bits_eq_foldl (fun j => bits[j]?.getD false),
      testBit_foldBits (fun j => bits[j]?.getD false)]
    rfl
  | lsbFirst => exact testBit_sum_bits (fun j => bits[j]?.getD false) w k

theorem indexOfBits_lt (o : IdxOrder) (w : Nat) (bits : List Bool) : Spec.indexOfBits o w bits < 2 ^ w := by
  refine Nat.lt_pow_two_of_testBit _ fun k hk => ?_
  rw [testBit_indexOfBits, decide_eq_false (Nat.not_lt.mpr hk), Bool.false_and]

/-! ### The bits of bytes in BUF (R85, R160) -/

/-- Bit `i` of a byte string. -/
theorem bitsOf_getElem? (data : List Byte) (i : Nat) :
    (Spec.bitsOf data)[i]? = data[i / 8]?.map fun b => b.getLsbD (7 - i % 8) := by
  induction data generalizing i with
  | nil => rfl
  | cons b data ih =>
    rw [Spec.bitsOf, List.flatMap_cons]
    by_cases hi : i < 8
    · rw [List.getElem?_append_left (by simpa using hi), Nat.div_eq_of_lt hi, Nat.mod_eq_of_lt hi]
      simp [hi]
    · obtain ⟨m, rfl⟩ := Nat.exists_eq_add_of_le (Nat.le_of_not_lt hi)
      have htail := ih m
      rw [Spec.bitsOf] at htail
      rw [List.getElem?_append_right (by simp), show 8 + m - _ = m by simp, htail, Nat.add_div_left m (by decide),
        Nat.add_mod_left, List.getElem?_cons_succ]

/-- BUF with the bytes of a block, whatever follows cleared (R276). -/
def loadedBlock (buf : Vector Byte 8) (data : List Byte) : Vector Byte 8 :=
  clearFrom (writeFrom buf 0 data) data.length

theorem getBit_loadedBlock (hlen : data.length ≤ 8) (hi : i < 8 * data.length) :
    getBit (loadedBlock buf data) i = (Spec.bitsOf data)[i]?.getD false := by
  have hbyte : i / 8 < data.length := by omega
  rw [getBit, loadedBlock, clearFrom_writeFrom_getElem? hbyte hlen, bitsOf_getElem?, List.getElem?_eq_getElem hbyte]
  rfl

/-- The bytes of a block in BUF, with the zeros behind them. -/
theorem loadedBlock_toList (hlen : data.length ≤ 8) :
    (loadedBlock buf data).toList = data ++ List.replicate (8 - data.length) 0 := by
  refine List.ext_getElem? fun k => ?_
  rw [Vector.getElem?_toList, loadedBlock, clearFrom, writeFrom_getElem?, List.length_replicate]
  by_cases hk : k < data.length
  · rw [if_neg (by omega), writeFrom_getElem?, if_pos (by omega), Nat.sub_zero, List.getElem?_append_left hk]
  · rw [List.getElem?_append_right (Nat.le_of_not_lt hk)]
    by_cases hk8 : k < 8
    · rw [if_pos (by omega)]
    · rw [if_neg (by omega), writeFrom_outside _ _ _ (.inr (by omega)), Vector.getElem?_eq_none (by omega),
        List.getElem?_eq_none (by simp; omega)]

/-- The index at a position of a block in BUF is the one that stands in its bytes (R166, R276). -/
theorem getIndex_loadedBlock (hlen : data.length ≤ 8) (hfield : p * w + w ≤ 8 * data.length) :
    getIndex o p w (loadedBlock buf data) = Spec.indexOfBits o w (((Spec.bitsOf data).drop (p * w)).take w) := by
  refine eq_of_testBit_fieldWeight (o := o) (getIndex_lt ..) (indexOfBits_lt ..) fun j hj => ?_
  rw [testBit_getIndex hj, testBit_indexOfBits, decide_eq_true (fieldWeight_lt hj), Bool.true_and,
    fieldWeight_fieldWeight hj, List.getElem?_take_of_lt hj, List.getElem?_drop, getBit_loadedBlock hlen (by omega)]

/-- DECODE reads the indices of a block that stand in its bytes (R276). -/
theorem blockIndices_eq (hw : 1 ≤ w) (hw7 : w ≤ 7) (hlen : data.length = (geometry prm w).2) (buf : Vector Byte 8) :
    (List.range (geometry prm w).1).map (fun k => getIndex o k w (loadedBlock buf data)) =
      Spec.blockIndices o w (geometry prm w).1 data := by
  refine List.map_congr_left fun k hk => ?_
  have hfield := field_in_block hw hw7 (List.mem_range.mp hk)
  exact getIndex_loadedBlock (hlen ▸ geometry_bytes_le prm hw hw7) (hlen ▸ hfield)

end Sys2Proof.Machine
end

section
/-! SUPPORT. The events of DECODE's loops (R90, R274 to R277), for every choice of the host. -/

namespace Sys2Proof.Machine

variable {s t u : State} {io ev : List Bool} {e : ErrKind} {k n p pos : Nat}

/-! ### Reads -/

theorem readBytes_traced (n pos : Nat) (acc : List Byte) (s : State) :
    Traced (readBytes n pos acc) s (List.replicate n false) (.ok (acc ++ Memory.readList s.inMem pos n) s) := by
  induction n generalizing pos acc with
  | zero =>
    rw [show Memory.readList s.inMem pos 0 = [] from rfl, List.append_nil]
    exact Traced.ok acc s
  | succ n ih =>
    have hrest := ih (pos + 1) (acc ++ [Memory.read s.inMem pos])
    rw [List.append_assoc, List.singleton_append, ← Memory.readList_cons] at hrest
    exact (readIn_traced pos s).andThen hrest

theorem readAlphabet_traced (n pos k : Nat) (s : State) :
    Traced (readAlphabet n pos k) s (List.replicate n false)
      (.ok () { s with alpha := writeFrom s.alpha k (Memory.readList s.inMem pos n) }) := by
  induction n generalizing pos k s with
  | zero => exact Traced.ok () s
  | succ n ih =>
    rw [Memory.readList_cons, writeFrom]
    exact (readIn_traced pos s).andThen
      ((ih (pos + 1) (k + 1) { s with alpha := s.alpha.setIfInBounds k (Memory.read s.inMem pos) }).of_eq
        (fun _ => rfl) rfl)

theorem readBlock_traced (n pos j : Nat) (s : State) :
    Traced (readBlock n pos j) s (List.replicate n false)
      (.ok () (s.setBuf (writeFrom s.buf j (Memory.readList s.inMem pos n)))) := by
  induction n generalizing pos j s with
  | zero => exact Traced.ok () s
  | succ n ih =>
    rw [Memory.readList_cons, writeFrom]
    exact (readIn_traced pos s).andThen
      ((ih (pos + 1) (j + 1) (s.setBuf (s.buf.setIfInBounds j (Memory.read s.inMem pos)))).of_eq (fun _ => rfl) rfl)

/-! ### Characters written -/

/-- The characters appended to OUT and counted in EMITTED (R48, R276). -/
def State.emit (s : State) (bs : List Byte) : State := (s.append bs).addEmitted bs.length

@[simp] theorem State.append_tlen (s : State) (bs : List Byte) : (s.append bs).tlen = s.tlen := rfl
@[simp] theorem State.append_srclen (s : State) (bs : List Byte) : (s.append bs).srclen = s.srclen := rfl

theorem State.emit_params (s : State) (bs : List Byte) : (s.emit bs).params = s.params := by simp [State.emit]
theorem State.emit_inMem (s : State) (bs : List Byte) : (s.emit bs).inMem = s.inMem := by simp [State.emit]
theorem State.emit_srclen (s : State) (bs : List Byte) : (s.emit bs).srclen = s.srclen := by simp [State.emit]
theorem State.emit_cw (s : State) (bs : List Byte) : (s.emit bs).cw = s.cw := by simp [State.emit]
theorem State.emit_cpb (s : State) (bs : List Byte) : (s.emit bs).cpb = s.cpb := by simp [State.emit]
theorem State.emit_bpb (s : State) (bs : List Byte) : (s.emit bs).bpb = s.bpb := by simp [State.emit]
theorem State.emit_tlen (s : State) (bs : List Byte) : (s.emit bs).tlen = s.tlen := by simp [State.emit]
theorem State.emit_buf (s : State) (bs : List Byte) : (s.emit bs).buf = s.buf := by simp [State.emit]
theorem State.emit_alphabet (s : State) (bs : List Byte) : (s.emit bs).alphabet = s.alphabet := by simp [State.emit]
theorem State.emit_emitted (s : State) (bs : List Byte) :
    (s.emit bs).emitted = s.emitted + BitVec.ofNat 32 bs.length := by simp [State.emit]

theorem State.append_addEmitted (s : State) (bs : List Byte) (n : Nat) :
    (s.addEmitted n).append bs = (s.append bs).addEmitted n := rfl

theorem State.addEmitted_addEmitted (s : State) (m n : Nat) : (s.addEmitted m).addEmitted n = s.addEmitted (m + n) := by
  rw [State.addEmitted, State.addEmitted_emitted, BitVec.add_assoc, ← BitVec.ofNat_add]
  rfl

theorem State.emit_nil (s : State) : s.emit [] = s := by
  have hzero : s.emitted + BitVec.ofNat 32 0 = s.emitted := by simp
  rw [State.emit, State.addEmitted, State.append_emitted, List.length_nil, hzero]
  rfl

theorem State.emit_emit (s : State) (bs cs : List Byte) : (s.emit bs).emit cs = s.emit (bs ++ cs) := by
  rw [State.emit, State.emit, State.append_addEmitted, State.append_append, State.addEmitted_addEmitted,
    ← List.length_append, State.emit]

theorem State.setBuf_emit (s : State) (buf : Vector Byte 8) (bs : List Byte) :
    (s.setBuf buf).emit bs = (s.emit bs).setBuf buf := rfl

/-! ### The positions of a block (R276) -/

/-- The indices at `n` positions of BUF from `p` on. -/
def State.positionIndices (s : State) (p n : Nat) : List Nat :=
  (List.range n).map fun k => getIndex s.params.idxOrder (p + k) s.cw.toNat s.buf

theorem State.positionIndices_succ (s : State) (p n : Nat) : s.positionIndices p (n + 1) =
    getIndex s.params.idxOrder p s.cw.toNat s.buf :: s.positionIndices (p + 1) n := by
  rw [State.positionIndices, List.range_succ_eq_map, List.map_cons, List.map_map, State.positionIndices]
  refine congrArg₂ List.cons rfl (List.map_congr_left fun k _ => ?_)
  rw [Function.comp_apply, Nat.add_right_comm, Nat.add_assoc]

theorem State.emit_positionIndices (s : State) (bs : List Byte) (p n : Nat) :
    (s.emit bs).positionIndices p n = s.positionIndices p n := by
  simp only [State.positionIndices, s.emit_params, s.emit_cw, s.emit_buf]

/-- The indices before the first one that is not below TLEN. -/
def State.goodIndices (s : State) (p n : Nat) : List Nat :=
  (s.positionIndices p n).takeWhile fun i => decide (i < s.alphabet.length)

/-- The characters of indices. -/
def State.charsOf (s : State) (indices : List Nat) : List Byte := indices.map fun i => s.alphabet[i]?.getD 0

theorem decodePositions_of_lt (h : getIndex s.params.idxOrder p s.cw.toNat s.buf < s.tlen.toNat) :
    decodePositions (n + 1) p s =
      (outByte (s.alpha[getIndex s.params.idxOrder p s.cw.toNat s.buf]?.getD 0) s).andThen
        fun _ s1 => decodePositions n (p + 1) (s1.addEmitted 1) :=
  if_neg (Nat.not_le.mpr h)

/-- DECODE writes the characters of a block up to the first index that is not below TLEN (R276). -/
theorem decodePositions_traced (htlen : s.tlen.toNat = s.alphabet.length) :
    Traced (decodePositions n p) s (List.replicate (s.goodIndices p n).length true)
      (if (s.goodIndices p n).length < n then .raise .corruptIndex (s.emit (s.charsOf (s.goodIndices p n)))
        else .ok () (s.emit (s.charsOf (s.goodIndices p n)))) := by
  induction n generalizing p s with
  | zero =>
    rw [show s.goodIndices p 0 = [] from rfl, show s.charsOf [] = [] from rfl, s.emit_nil]
    exact Traced.ok () s
  | succ n ih =>
    rw [State.goodIndices, s.positionIndices_succ, List.takeWhile_cons]
    by_cases hlt : getIndex s.params.idxOrder p s.cw.toNat s.buf < s.alphabet.length
    · let b : Byte := s.alphabet[getIndex s.params.idxOrder p s.cw.toNat s.buf]?.getD 0
      have hchar : s.alpha[getIndex s.params.idxOrder p s.cw.toNat s.buf]?.getD 0 = b := by
        show _ = Option.getD _ 0
        rw [State.alphabet_getElem?, if_pos (htlen ▸ hlt)]
      have hrest := ih (p := p + 1) (s := s.emit [b]) (by rw [s.emit_tlen, s.emit_alphabet, htlen])
      have hgood : (s.emit [b]).goodIndices (p + 1) n = s.goodIndices (p + 1) n := by
        rw [State.goodIndices, s.emit_positionIndices, s.emit_alphabet, State.goodIndices]
      have hchars (l : List Nat) : (s.emit [b]).charsOf l = s.charsOf l := by
        rw [State.charsOf, s.emit_alphabet, State.charsOf]
      rw [hgood, hchars, s.emit_emit, List.singleton_append] at hrest
      simp only [decide_eq_true hlt, if_true, List.length_cons, Nat.add_lt_add_iff_right]
      have hstep := (outByte_traced b s).andThen (g := fun _ s1 => decodePositions n (p + 1) (s1.addEmitted 1))
        (hrest.of_eq (fun _ => rfl) rfl)
      exact hstep.of_eq (fun io => (decodePositions_of_lt (s := s.withIo io) (htlen ▸ hlt)).trans
        (congrArg (fun c => (outByte c (s.withIo io)).andThen fun _ s1 => decodePositions n (p + 1) (s1.addEmitted 1))
          hchar)) rfl
    · rw [if_neg (by simpa using hlt), List.length_nil, if_pos (Nat.succ_pos n), show s.charsOf [] = [] from rfl, s.emit_nil]
      exact .of_none (fun io => if_pos (htlen ▸ Nat.le_of_not_lt hlt)) rfl

/-! ### The raw tail (R277) -/

/-- DECODE copies the tail as far as the source goes. -/
theorem decodeTail_traced (n pos : Nat) (s : State) :
    Traced (decodeTail n pos) s (Spec.tailEvents (min n (s.srclen.toNat - pos)))
      (if s.srclen.toNat - pos < n then
        .raise .lengthMismatch (s.emit (Memory.readList s.inMem pos (min n (s.srclen.toNat - pos))))
        else .ok () (s.emit (Memory.readList s.inMem pos (min n (s.srclen.toNat - pos))))) := by
  induction n generalizing pos s with
  | zero =>
    rw [if_neg (Nat.not_lt_zero _), Nat.zero_min, show Memory.readList s.inMem pos 0 = [] from rfl, s.emit_nil]
    exact Traced.ok () s
  | succ n ih =>
    by_cases hpos : s.srclen.toNat ≤ pos
    · rw [Nat.sub_eq_zero_of_le hpos, Nat.min_zero, if_pos (Nat.succ_pos n),
        show Memory.readList s.inMem pos 0 = [] from rfl, s.emit_nil]
      exact .of_none (fun io => if_pos hpos) rfl
    · have hmin : min (n + 1) (s.srclen.toNat - pos) = min n (s.srclen.toNat - (pos + 1)) + 1 := by omega
      have hiff : s.srclen.toNat - pos < n + 1 ↔ s.srclen.toNat - (pos + 1) < n := by omega
      have hrest := ih (pos + 1) (s.emit [Memory.read s.inMem pos])
      rw [s.emit_srclen, s.emit_inMem, s.emit_emit, List.singleton_append, ← Memory.readList_cons] at hrest
      simp only [hmin, hiff, tailEvents_succ]
      have hcopy := (readIn_traced pos s).andThen (g := fun b s1 => (outByte b s1).andThen
        fun _ s2 => decodeTail n (pos + 1) (s2.addEmitted 1)) ((outByte_traced _ s).andThen
          (g := fun _ s2 => decodeTail n (pos + 1) (s2.addEmitted 1)) (hrest.of_eq (fun _ => rfl) rfl))
      exact hcopy.of_eq (fun io => if_neg hpos) rfl

end Sys2Proof.Machine
end

section
/-! SUPPORT. The packed data read by DECODE (R276, R277): blocks and tail against the format, for every choice of the
host. -/

namespace Sys2Proof.Machine

variable {s t u : State} {io ev : List Bool} {e : ErrKind} {k n p pos tail : Nat} {r : Res Unit}

theorem Res.raise_code_ne_zero (e : ErrKind) (s : State) : (Res.raise e s).code ≠ 0 := e.code_ne_zero

/-! ### The steps and what the format says of them -/

/-- DECODE from the `n` blocks at `pos` on, with a tail of `tail` bytes at `tailPos`. -/
def decodeRest (n tail pos tailPos : Nat) (s : State) : Res Unit :=
  (decodeBlocks n pos s).andThen fun _ s1 => decodeTail tail tailPos s1

/-- What the format says of the data at `pos`, at the width and Alphabet in the registers. -/
def State.dataSpec (s : State) (n tail pos : Nat) : List Byte × BitVec 8 :=
  Spec.decodeData s.params.idxOrder s.cw.toNat s.cpb.toNat s.bpb.toNat s.alphabet n tail (s.sourceBytes.drop pos)

/-- The events of `n` blocks and a tail. -/
def State.dataEvents (s : State) (n tail : Nat) : List Bool :=
  (List.replicate n (blockEvents s.bpb.toNat s.cpb.toNat)).flatten ++ Spec.tailEvents tail

/-- The bytes of the source at `pos`. -/
theorem State.drop_sourceBytes (s : State) (pos : Nat) :
    s.sourceBytes.drop pos = Memory.readList s.inMem pos (s.srclen.toNat - pos) := by
  by_cases hpos : pos ≤ s.srclen.toNat
  · rw [State.sourceBytes, ← Nat.add_sub_cancel' hpos, Memory.readList_add, List.drop_left' (Memory.readList_length ..),
      Nat.zero_add, Nat.add_sub_cancel_left]
  · rw [Nat.sub_eq_zero_of_le (Nat.le_of_not_le hpos), List.drop_eq_nil_of_le (by rw [s.sourceBytes_length]; omega)]
    rfl

theorem Memory.readList_take {m : Memory} {a : Nat} (h : k ≤ n) :
    (Memory.readList m a n).take k = Memory.readList m a k := by
  rw [← Nat.add_sub_cancel' h, Memory.readList_add, List.take_left' (Memory.readList_length ..)]

/-- The bytes of the block at `pos`. -/
def State.blockData (s : State) (pos : Nat) : List Byte := Memory.readList s.inMem pos s.bpb.toNat

theorem State.take_drop_sourceBytes (s : State) (h : pos + s.bpb.toNat ≤ s.srclen.toNat) :
    (s.sourceBytes.drop pos).take s.bpb.toNat = s.blockData pos := by
  rw [s.drop_sourceBytes, Memory.readList_take (by omega)]
  rfl

/-- The state with a block in BUF. -/
def State.loaded (s : State) (pos : Nat) : State := s.setBuf (loadedBlock s.buf (s.blockData pos))

theorem State.blockData_length (s : State) (pos : Nat) : (s.blockData pos).length = s.bpb.toNat :=
  Memory.readList_length ..

/-- The characters that the block at `pos` holds before the first corrupt index (R276). -/
def State.blockGood (s : State) (pos : Nat) : List Nat :=
  (Spec.blockIndices s.params.idxOrder s.cw.toNat s.cpb.toNat (s.blockData pos)).takeWhile
    fun i => decide (i < s.alphabet.length)

/-- The registers hold a width with its geometry and an Alphabet (R275). -/
structure State.Geared (s : State) : Prop where
  one_le : 1 ≤ s.cw.toNat
  cpb : s.cpb.toNat = (geometry s.params s.cw.toNat).1
  bpb : s.bpb.toNat = (geometry s.params s.cw.toNat).2
  tlen : s.tlen.toNat = s.alphabet.length

theorem State.Geared.bpb_le (h : s.Geared) : s.bpb.toNat ≤ 8 :=
  h.bpb ▸ geometry_bytes_le s.params h.one_le (Nat.le_of_lt_succ s.cw.isLt)

theorem State.loaded_goodIndices (h : s.Geared) (pos : Nat) :
    (s.loaded pos).goodIndices 0 s.cpb.toNat = s.blockGood pos := by
  have hindices := blockIndices_eq (o := s.params.idxOrder) (prm := s.params) h.one_le (Nat.le_of_lt_succ s.cw.isLt)
    ((s.blockData_length pos).trans h.bpb) s.buf
  rw [← h.cpb] at hindices
  rw [State.blockGood, ← hindices]
  simp only [State.goodIndices, State.positionIndices, Nat.zero_add]
  rfl

/-! ### One block -/

theorem decodeRest_missing {tailPos : Nat} (h : s.srclen.toNat < pos + s.bpb.toNat) :
    decodeRest (n + 1) tail pos tailPos s = .raise .lengthMismatch s := by
  rw [decodeRest, decodeBlocks, if_pos h, Res.andThen_raise]

/-- A missing block (R276). -/
theorem decodeRest_traced_missing {tailPos : Nat} (h : s.srclen.toNat < pos + s.bpb.toNat) :
    Traced (decodeRest (n + 1) tail pos tailPos) s [] (.raise .lengthMismatch s) :=
  .of_none (fun io => decodeRest_missing (s := s.withIo io) h) rfl

/-- The reads of a block and its positions, then the rest (R276). -/
theorem decodeRest_succ {tailPos : Nat} (h : ¬ s.srclen.toNat < pos + s.bpb.toNat) :
    decodeRest (n + 1) tail pos tailPos s =
      (readBlock s.bpb.toNat pos 0 s).andThen fun _ s1 =>
        (decodePositions s1.cpb.toNat 0 (s1.setBuf (clearFrom s1.buf s1.bpb.toNat))).andThen fun _ s2 =>
          decodeRest n tail (pos + s2.bpb.toNat) tailPos s2 := by
  rw [decodeRest, decodeBlocks, if_neg h]
  simp only [Res.andThen_assoc]
  rfl

theorem decodeRest_traced_succ {tailPos : Nat} (h : ¬ s.srclen.toNat < pos + s.bpb.toNat)
    (hrest : Traced (fun s1 => (decodePositions s.cpb.toNat 0 s1).andThen fun _ s2 =>
      decodeRest n tail (pos + s2.bpb.toNat) tailPos s2) (s.loaded pos) ev r) :
    Traced (decodeRest (n + 1) tail pos tailPos) s (List.replicate s.bpb.toNat false ++ ev) r := by
  have hread := (readBlock_traced s.bpb.toNat pos 0 s).andThen (g := fun _ s1 =>
    (decodePositions s1.cpb.toNat 0 (s1.setBuf (clearFrom s1.buf s1.bpb.toNat))).andThen fun _ s2 =>
      decodeRest n tail (pos + s2.bpb.toNat) tailPos s2)
    (hrest.of_eq (s := s.setBuf (writeFrom s.buf 0 (s.blockData pos))) (fun io => by
      rw [State.loaded, loadedBlock, s.blockData_length]; rfl) rfl)
  exact hread.of_eq (fun io => decodeRest_succ (s := s.withIo io) h) rfl

/-! ### Blocks and tail -/

/-- The bytes from `s` to `t`: appended, counted, and BUF with whatever DECODE left there. -/
def State.Emits (s : State) (bs : List Byte) (t : State) : Prop := t = (s.emit bs).setBuf t.buf

/-- What DECODE does with the data at `pos`: the events in their order, the end the format says, the bytes of the
format appended, and after a success the last block in BUF. -/
structure DataRun (s : State) (n tail pos : Nat) (ev : List Bool) (r : Res Unit) : Prop where
  traced : Traced (decodeRest n tail pos (pos + n * s.bpb.toNat)) s ev r
  code : r.code = (s.dataSpec n tail pos).2
  emits : s.Emits (s.dataSpec n tail pos).1 r.state
  isPrefix : ev <+: s.dataEvents n tail
  full : r.code = 0 → ev = s.dataEvents n tail
  length : r.code = 0 → (s.dataSpec n tail pos).1.length = n * s.cpb.toNat + tail
  buf_zero : n = 0 → r.state.buf = s.buf
  buf_last : r.code = 0 → 0 < n → r.state.buf.toList =
    (s.sourceBytes.drop (pos + (n - 1) * s.bpb.toNat)).take s.bpb.toNat ++ List.replicate (8 - s.bpb.toNat) 0

theorem State.Emits.nil (s : State) : s.Emits [] s := by
  rw [State.Emits, s.emit_nil]
  rfl

theorem tailEvents_isPrefix {m n : Nat} (h : m ≤ n) : Spec.tailEvents m <+: Spec.tailEvents n := by
  rw [← Nat.add_sub_cancel' h, Spec.tailEvents, Spec.tailEvents, ← List.replicate_append_replicate,
    List.flatten_append]
  exact List.prefix_append _ _

/-- The tail alone. -/
theorem dataRun_tail (s : State) (tail pos : Nat) : ∃ ev r, DataRun s 0 tail pos ev r := by
  have htail := decodeTail_traced tail pos s
  have hbytes : (s.dataSpec 0 tail pos).1 = Memory.readList s.inMem pos (min tail (s.srclen.toNat - pos)) := by
    rw [State.dataSpec, Spec.decodeData, s.drop_sourceBytes]
    by_cases h : tail ≤ s.srclen.toNat - pos
    · rw [Memory.readList_take h, Nat.min_eq_left h]
    · rw [List.take_of_length_le (by rw [Memory.readList_length]; omega), Nat.min_eq_right (Nat.le_of_not_le h)]
  have hcode : (s.dataSpec 0 tail pos).2 = if s.srclen.toNat - pos < tail then 0x07#8 else 0x00#8 := by
    rw [State.dataSpec, Spec.decodeData, s.drop_sourceBytes, Memory.readList_length]
  rw [← hbytes] at htail
  have hrun : Traced (decodeRest 0 tail pos (pos + 0 * s.bpb.toNat)) s _ _ :=
    htail.of_eq (fun io => by rw [Nat.zero_mul, Nat.add_zero]; rfl) rfl
  have hemit : s.Emits (s.dataSpec 0 tail pos).1 (s.emit (s.dataSpec 0 tail pos).1) := rfl
  by_cases h : s.srclen.toNat - pos < tail
  · rw [if_pos h] at hrun hcode
    exact ⟨_, _, hrun, hcode.symm, hemit, tailEvents_isPrefix (Nat.min_le_left ..),
      fun h0 => absurd h0 (Res.raise_code_ne_zero _ _), fun h0 => absurd h0 (Res.raise_code_ne_zero _ _), fun _ => s.emit_buf _,
      fun _ h0 => absurd h0 (Nat.lt_irrefl 0)⟩
  · rw [if_neg h] at hrun hcode
    rw [Nat.min_eq_left (Nat.le_of_not_lt h)] at hrun hbytes
    exact ⟨_, _, hrun, hcode.symm, hemit, List.prefix_refl _, fun _ => rfl,
      fun _ => by rw [hbytes, Memory.readList_length, Nat.zero_mul, Nat.zero_add], fun _ => s.emit_buf _,
      fun _ h0 => absurd h0 (Nat.lt_irrefl 0)⟩

theorem State.Emits.trans {bs cs : List Byte} (h : s.Emits bs u) (h' : u.Emits cs t) : s.Emits (bs ++ cs) t := by
  rw [State.Emits] at h h'
  rw [State.Emits, ← s.emit_emit]
  conv_lhs => rw [h', h, State.setBuf_emit]
  rfl

theorem Spec.decodeData_missing {o : IdxOrder} {w c b : Nat} {alphabet data : List Byte} (h : data.length < b) :
    Spec.decodeData o w c b alphabet (n + 1) tail data = ([], 0x07#8) := by
  rw [Spec.decodeData, if_pos h]

theorem State.dataSpec_missing (h : s.srclen.toNat < pos + s.bpb.toNat) (hpos : pos ≤ s.srclen.toNat) :
    s.dataSpec (n + 1) tail pos = ([], 0x07#8) :=
  Spec.decodeData_missing (by rw [s.drop_sourceBytes, Memory.readList_length]; omega)

/-- What the format says of a block that is there: its characters up to the first corrupt index, and the rest. -/
theorem State.dataSpec_succ (h : pos + s.bpb.toNat ≤ s.srclen.toNat) :
    s.dataSpec (n + 1) tail pos =
      if (s.blockGood pos).length < s.cpb.toNat then (s.charsOf (s.blockGood pos), 0x05#8)
      else (s.charsOf (s.blockGood pos) ++ (s.dataSpec n tail (pos + s.bpb.toNat)).1,
        (s.dataSpec n tail (pos + s.bpb.toNat)).2) := by
  have hlen : ¬ (s.sourceBytes.drop pos).length < s.bpb.toNat := by
    rw [List.length_drop, s.sourceBytes_length]
    omega
  rw [State.dataSpec, Spec.decodeData, if_neg hlen, s.take_drop_sourceBytes h, List.drop_drop]
  rfl

theorem State.dataEvents_succ (s : State) (n tail : Nat) :
    s.dataEvents (n + 1) tail = blockEvents s.bpb.toNat s.cpb.toNat ++ s.dataEvents n tail := by
  rw [State.dataEvents, List.replicate_succ, List.flatten_cons, List.append_assoc, State.dataEvents]

theorem State.blockGood_length_le (s : State) (pos : Nat) : (s.blockGood pos).length ≤ s.cpb.toNat :=
  (List.takeWhile_prefix _).length_le.trans (by simp [Spec.blockIndices])

/-- The state after a block whose indices are all below TLEN. -/
def State.decoded (s : State) (pos : Nat) : State := (s.loaded pos).emit (s.charsOf (s.blockGood pos))

theorem State.decoded_params (s : State) (pos : Nat) : (s.decoded pos).params = s.params := State.emit_params ..
theorem State.decoded_cw (s : State) (pos : Nat) : (s.decoded pos).cw = s.cw := State.emit_cw ..
theorem State.decoded_cpb (s : State) (pos : Nat) : (s.decoded pos).cpb = s.cpb := State.emit_cpb ..
theorem State.decoded_bpb (s : State) (pos : Nat) : (s.decoded pos).bpb = s.bpb := State.emit_bpb ..
theorem State.decoded_tlen (s : State) (pos : Nat) : (s.decoded pos).tlen = s.tlen := State.emit_tlen ..
theorem State.decoded_srclen (s : State) (pos : Nat) : (s.decoded pos).srclen = s.srclen := State.emit_srclen ..
theorem State.decoded_inMem (s : State) (pos : Nat) : (s.decoded pos).inMem = s.inMem := State.emit_inMem ..
theorem State.decoded_alphabet (s : State) (pos : Nat) : (s.decoded pos).alphabet = s.alphabet := State.emit_alphabet ..
theorem State.decoded_buf (s : State) (pos : Nat) : (s.decoded pos).buf = loadedBlock s.buf (s.blockData pos) :=
  State.emit_buf ..

theorem State.decoded_sourceBytes (s : State) (pos : Nat) : (s.decoded pos).sourceBytes = s.sourceBytes := by
  rw [State.sourceBytes, s.decoded_inMem, s.decoded_srclen, State.sourceBytes]

theorem State.decoded_dataSpec (s : State) (q n tail pos : Nat) :
    (s.decoded q).dataSpec n tail pos = s.dataSpec n tail pos := by
  rw [State.dataSpec, s.decoded_params, s.decoded_cw, s.decoded_cpb, s.decoded_bpb, s.decoded_alphabet,
    s.decoded_sourceBytes, State.dataSpec]

theorem State.decoded_dataEvents (s : State) (q n tail : Nat) :
    (s.decoded q).dataEvents n tail = s.dataEvents n tail := by
  rw [State.dataEvents, s.decoded_cpb, s.decoded_bpb, State.dataEvents]

theorem State.Geared.decoded (h : s.Geared) (pos : Nat) : (s.decoded pos).Geared where
  one_le := s.decoded_cw pos ▸ h.one_le
  cpb := by rw [s.decoded_cpb, s.decoded_params, s.decoded_cw, h.cpb]
  bpb := by rw [s.decoded_bpb, s.decoded_params, s.decoded_cw, h.bpb]
  tlen := by rw [s.decoded_tlen, s.decoded_alphabet, h.tlen]

theorem State.Emits.decoded (s : State) (pos : Nat) : s.Emits (s.charsOf (s.blockGood pos)) (s.decoded pos) := rfl

/-- The positions of the block at `pos` (R276). -/
theorem State.Geared.decodePositions_traced (h : s.Geared) (pos : Nat) :
    Traced (decodePositions s.cpb.toNat 0) (s.loaded pos) (List.replicate (s.blockGood pos).length true)
      (if (s.blockGood pos).length < s.cpb.toNat then .raise .corruptIndex (s.decoded pos)
        else .ok () (s.decoded pos)) := by
  have hpositions := Machine.decodePositions_traced (s := s.loaded pos) (n := s.cpb.toNat) (p := 0) h.tlen
  rwa [s.loaded_goodIndices h] at hpositions

/-- A block with a corrupt index (R276). -/
theorem State.Geared.dataRun_corrupt (h : s.Geared) (hblock : pos + s.bpb.toNat ≤ s.srclen.toNat)
    (hbad : (s.blockGood pos).length < s.cpb.toNat) : ∃ ev r, DataRun s (n + 1) tail pos ev r := by
  have hspec := s.dataSpec_succ (n := n) (tail := tail) hblock
  have hpositions := h.decodePositions_traced pos
  rw [if_pos hbad] at hpositions hspec
  have hrun := decodeRest_traced_succ (n := n) (tail := tail) (tailPos := pos + (n + 1) * s.bpb.toNat)
    (Nat.not_lt.mpr hblock) (hpositions.andThen_raise fun _ s2 => decodeRest n tail (pos + s2.bpb.toNat) _ s2)
  refine ⟨_, _, hrun, by rw [hspec]; rfl, by rw [hspec]; exact .decoded s pos, ?_,
    fun h0 => absurd h0 (Res.raise_code_ne_zero _ _), fun h0 => absurd h0 (Res.raise_code_ne_zero _ _),
    fun h0 => absurd h0 (Nat.succ_ne_zero n), fun h0 => absurd h0 (Res.raise_code_ne_zero _ _)⟩
  rw [s.dataEvents_succ, blockEvents, List.append_assoc, List.prefix_append_right_inj, ← Nat.add_sub_cancel' hbad.le,
    ← List.replicate_append_replicate, List.append_assoc]
  exact List.prefix_append _ _

/-- A block without a corrupt index, and what comes after it (R276). -/
theorem State.Geared.dataRun_succ (h : s.Geared) (hblock : pos + s.bpb.toNat ≤ s.srclen.toNat)
    (hgood : ¬ (s.blockGood pos).length < s.cpb.toNat)
    (hrest : DataRun (s.decoded pos) n tail (pos + s.bpb.toNat) ev r) :
    DataRun s (n + 1) tail pos (blockEvents s.bpb.toNat s.cpb.toNat ++ ev) r := by
  have hspec := s.dataSpec_succ (n := n) (tail := tail) hblock
  have hlen : (s.blockGood pos).length = s.cpb.toNat :=
    Nat.le_antisymm (s.blockGood_length_le pos) (Nat.le_of_not_lt hgood)
  have hpositions := h.decodePositions_traced pos
  obtain ⟨htraced, hcode, hemits, hprefix, hfull, hlength, hzero, hlast⟩ := hrest
  rw [if_neg hgood, hlen] at hpositions
  rw [if_neg hgood] at hspec
  rw [s.decoded_dataSpec] at hcode hemits hlength
  rw [s.decoded_dataEvents] at hprefix hfull
  rw [s.decoded_cpb] at hlength
  rw [s.decoded_buf] at hzero
  rw [s.decoded_sourceBytes, s.decoded_bpb] at hlast
  rw [s.decoded_bpb, Nat.add_assoc, Nat.add_comm s.bpb.toNat, ← Nat.succ_mul] at htraced
  have hrun := decodeRest_traced_succ (Nat.not_lt.mpr hblock) (hpositions.andThen
    (g := fun _ s2 => decodeRest n tail (pos + s2.bpb.toNat) (pos + (n + 1) * s.bpb.toNat) s2)
    (htraced.of_eq (fun io => by rw [show ((s.decoded pos).withIo io).bpb = s.bpb from s.decoded_bpb pos]) rfl))
  rw [← List.append_assoc] at hrun
  refine ⟨hrun, by rw [hspec]; exact hcode, by rw [hspec]; exact (State.Emits.decoded s pos).trans hemits, ?_,
    fun h0 => ?_, fun h0 => ?_, fun h0 => absurd h0 (Nat.succ_ne_zero n), fun h0 _ => ?_⟩
  · rw [s.dataEvents_succ]
    exact (List.prefix_append_right_inj _).mpr hprefix
  · rw [s.dataEvents_succ, hfull h0]
  · rw [hspec, List.length_append, hlength h0, State.charsOf, List.length_map, hlen, Nat.succ_mul]
    omega
  · cases n with
    | zero =>
      rw [hzero rfl, loadedBlock_toList ((s.blockData_length pos).trans_le h.bpb_le), s.blockData_length,
        ← s.take_drop_sourceBytes hblock]
      simp
    | succ n =>
      rw [hlast h0 (Nat.succ_pos n), Nat.add_sub_cancel, Nat.add_sub_cancel, Nat.succ_mul]
      simp only [Nat.add_assoc, Nat.add_comm s.bpb.toNat]

/-- DECODE reads the data as the format says, whatever they hold (R276, R277). -/
theorem State.Geared.exists_dataRun (h : s.Geared) (n tail : Nat) (hpos : pos ≤ s.srclen.toNat) :
    ∃ ev r, DataRun s n tail pos ev r := by
  induction n generalizing pos s with
  | zero => exact dataRun_tail s tail pos
  | succ n ih =>
    by_cases hmissing : s.srclen.toNat < pos + s.bpb.toNat
    · have hspec := s.dataSpec_missing (n := n) (tail := tail) hmissing hpos
      exact ⟨_, _, decodeRest_traced_missing hmissing, by rw [hspec]; rfl, by rw [hspec]; exact .nil s, List.nil_prefix,
        fun h0 => absurd h0 (Res.raise_code_ne_zero _ _), fun h0 => absurd h0 (Res.raise_code_ne_zero _ _),
        fun h0 => absurd h0 (Nat.succ_ne_zero n), fun h0 => absurd h0 (Res.raise_code_ne_zero _ _)⟩
    · have hblock := Nat.le_of_not_lt hmissing
      by_cases hbad : (s.blockGood pos).length < s.cpb.toNat
      · exact h.dataRun_corrupt hblock hbad
      · obtain ⟨ev, r, hrest⟩ := ih (s := s.decoded pos) (pos := pos + s.bpb.toNat) (h.decoded pos)
          (by rwa [s.decoded_srclen])
        exact ⟨_, _, h.dataRun_succ hblock hbad hrest⟩

end Sys2Proof.Machine
end

section
/-! SUPPORT. DECODE as a whole (R272 to R279): the header, the data, the close, for every choice of the host. -/

namespace Sys2Proof.Machine

variable {s t u : State} {io ev : List Bool} {e : ErrKind} {k n p pos tail : Nat} {r : Res Unit}

/-! ### The header (R273 to R275) -/

/-- A header integer of the source. -/
def State.headerField (s : State) (pos : Nat) : Word := Spec.headerField s.params.hdrEndian s.sourceBytes pos

/-- The ranges of a header that DECODE takes (R273). -/
theorem State.headerOk_ranges (h : Spec.headerOk s.params s.sourceBytes = true) :
    16 ≤ s.srclen.toNat ∧ (1 ≤ (s.headerField 4).toNat ∧ (s.headerField 4).toNat ≤ 128) ∧
      (1 ≤ (s.headerField 8).toNat ∧ (s.headerField 8).toNat ≤ 7) ∧ (s.headerField 0).toNat < 2 ^ 31 ∧
      16 + (s.headerField 4).toNat ≤ s.srclen.toNat ∧
      headerAccepted (s.headerField 0) (s.headerField 4) (s.headerField 8) = true := by
  rw [Spec.headerOk, s.sourceBytes_length] at h
  obtain ⟨h16, hlen0, htable1, htable128, hwidth1, hwidth7, hcut⟩ := of_decide_eq_true h
  have haccepted : headerAccepted (s.headerField 0) (s.headerField 4) (s.headerField 8) = true := by
    simp only [headerAccepted, Bool.and_eq_true, decide_eq_true_eq]
    exact ⟨⟨⟨⟨hlen0, htable1⟩, htable128⟩, hwidth1⟩, hwidth7⟩
  obtain ⟨hlen, htable, hwidth⟩ := headerAccepted_ranges haccepted
  have hcast : (s.headerField 4).toInt = (s.headerField 4).toNat := BitVec.toInt_eq_toNat_of_lt (by omega)
  rw [State.headerField] at hcast htable ⊢
  exact ⟨h16, htable, hwidth, hlen, by omega, haccepted⟩

/-- The header bytes. -/
def State.headerBytes (s : State) : List Byte := s.sourceBytes.take 16

theorem State.readList_header (h16 : 16 ≤ s.srclen.toNat) : Memory.readList s.inMem 0 16 = s.headerBytes := by
  rw [State.headerBytes, s.sourceBytes_take h16]

theorem State.hdrWord_headerBytes (h16 : 16 ≤ s.srclen.toNat) (hpos : pos + 4 ≤ 16) :
    hdrWord s.params.hdrEndian (s.headerBytes.drop pos) = s.headerField pos :=
  hdrWord_eq_headerField _ hpos (s.sourceBytes_length ▸ h16)

/-- The state after the header and the Alphabet (R274, R275). -/
def State.headed (s : State) : State :=
  State.takeHeader s.headerBytes { s.decodeStart with
    alpha := writeFrom s.alpha 0 (Memory.readList s.inMem 16 (s.headerField 4).toNat) }

/-- DECODE's steps after its start read the source alone. -/
theorem decodeMain_decodeStart (s : State) : decodeMain s = decodeMain s.decodeStart := rfl

/-- DECODE up to the header test. -/
theorem decodeMain_traced_of_header (h16 : 16 ≤ s.srclen.toNat)
    (h : Traced (fun s1 => (decodeHeader s.headerBytes s1).andThen fun _ s2 => decodeData s2) s.decodeStart ev r) :
    Traced decodeMain s.decodeStart (List.replicate 16 false ++ ev) r := by
  have hread := readBytes_traced 16 0 [] s.decodeStart
  rw [List.nil_append, show s.decodeStart.inMem = s.inMem from rfl, State.readList_header h16] at hread
  exact (hread.andThen (g := fun h s1 => (decodeHeader h s1).andThen fun _ s2 => decodeData s2) h).of_eq
    (fun io => if_neg (Nat.not_lt.mpr h16)) rfl

theorem takeHeader_traced (h : List Byte) (s : State) :
    Traced (fun s => .ok () (s.takeHeader h)) s [] (.ok () (s.takeHeader h)) :=
  .of_none (fun _ => rfl) rfl

/-- A header that DECODE takes. -/
theorem decodeHeader_traced (h : Spec.headerOk s.params s.sourceBytes = true) :
    Traced (decodeHeader s.headerBytes) s.decodeStart (List.replicate (s.headerField 4).toNat false)
      (.ok () s.headed) := by
  obtain ⟨h16, -, -, -, hcut, haccepted⟩ := State.headerOk_ranges h
  have hlen := State.hdrWord_headerBytes (pos := 0) h16 (by decide)
  have htable := State.hdrWord_headerBytes (pos := 4) h16 (by decide)
  have hwidth := State.hdrWord_headerBytes (pos := 8) h16 (by decide)
  rw [List.drop_zero] at hlen
  have hread := (readAlphabet_traced (s.headerField 4).toNat 16 0 s.decodeStart).andThen
    (g := fun _ s1 => .ok () (s1.takeHeader s.headerBytes)) (takeHeader_traced s.headerBytes _)
  rw [List.append_nil] at hread
  refine hread.of_eq (fun io => ?_) rfl
  have heq := decodeHeader_eq s.headerBytes (s.decodeStart.withIo io)
  rw [show (s.decodeStart.withIo io).params = s.params from rfl, hlen, htable, hwidth, haccepted] at heq
  rw [heq, Bool.not_true, if_neg (by decide)]
  exact if_neg (Nat.not_lt.mpr hcut)

/-- DECODE of a source whose header it takes. -/
theorem decodeMain_traced_of_headerOk (h : Spec.headerOk s.params s.sourceBytes = true)
    (hdata : Traced decodeData s.headed ev r) :
    Traced decodeMain s.decodeStart (List.replicate (16 + (s.headerField 4).toNat) false ++ ev) r := by
  have hmain := decodeMain_traced_of_header (State.headerOk_ranges h).1 ((decodeHeader_traced h).andThen
    (g := fun _ s2 => decodeData s2) hdata)
  rwa [← List.append_assoc, List.replicate_append_replicate] at hmain

/-- DECODE of a source whose header it does not take (R273). -/
theorem decodeMain_traced_of_not_headerOk (h : Spec.headerOk s.params s.sourceBytes = false) :
    ∃ n, n ≤ 16 ∧ (16 ≤ s.srclen.toNat → 0 < n) ∧
      Traced decodeMain s.decodeStart (List.replicate n false) (.raise .corruptHeader s.decodeStart) := by
  by_cases h16 : 16 ≤ s.srclen.toNat
  · have hheader : Traced (decodeHeader s.headerBytes) s.decodeStart [] (.raise .corruptHeader s.decodeStart) :=
      .of_none (fun io => decodeHeader_of_not_headerOk (s := s.decodeStart.withIo io) (s.sourceBytes_length ▸ h16)
        s.sourceBytes_length.symm h) rfl
    have hmain := decodeMain_traced_of_header h16 (hheader.andThen_raise fun _ s2 => decodeData s2)
    rw [List.append_nil] at hmain
    exact ⟨16, Nat.le_refl 16, fun _ => by decide, hmain⟩
  · exact ⟨0, Nat.zero_le 16, fun h => absurd h h16,
      .of_none (fun io => if_pos (Nat.lt_of_not_le h16)) rfl⟩

/-! ### The registers after the header -/

theorem State.takeHeader_params (s : State) (h : List Byte) : (s.takeHeader h).params = s.params := rfl
theorem State.takeHeader_inMem (s : State) (h : List Byte) : (s.takeHeader h).inMem = s.inMem := rfl
theorem State.takeHeader_srclen (s : State) (h : List Byte) : (s.takeHeader h).srclen = s.srclen := rfl
theorem State.takeHeader_alpha (s : State) (h : List Byte) : (s.takeHeader h).alpha = s.alpha := rfl
theorem State.takeHeader_inlen (s : State) (h : List Byte) :
    (s.takeHeader h).inlen = hdrWord s.params.hdrEndian h := rfl
theorem State.takeHeader_odl (s : State) (h : List Byte) :
    (s.takeHeader h).odl = hdrWord s.params.hdrEndian (h.drop 12) := rfl
theorem State.takeHeader_tlen (s : State) (h : List Byte) :
    (s.takeHeader h).tlen = (hdrWord s.params.hdrEndian (h.drop 4)).setWidth 8 := rfl

theorem State.headed_params (s : State) : s.headed.params = s.params := State.takeHeader_params ..
theorem State.headed_inMem (s : State) : s.headed.inMem = s.inMem := State.takeHeader_inMem ..
theorem State.headed_srclen (s : State) : s.headed.srclen = s.srclen := State.takeHeader_srclen ..
theorem State.headed_alpha (s : State) :
    s.headed.alpha = writeFrom s.alpha 0 (Memory.readList s.inMem 16 (s.headerField 4).toNat) :=
  State.takeHeader_alpha ..

theorem State.headed_sourceBytes (s : State) : s.headed.sourceBytes = s.sourceBytes := by
  rw [State.sourceBytes, s.headed_inMem, s.headed_srclen, State.sourceBytes]

section
variable (h : Spec.headerOk s.params s.sourceBytes = true)
include h

theorem State.headed_inlen : s.headed.inlen = s.headerField 0 :=
  (State.takeHeader_inlen ..).trans (State.hdrWord_headerBytes (pos := 0) (State.headerOk_ranges h).1 (by decide))

theorem State.headed_odl : s.headed.odl = s.headerField 12 :=
  (State.takeHeader_odl ..).trans (State.hdrWord_headerBytes (State.headerOk_ranges h).1 (by decide))

theorem State.headed_tlen : s.headed.tlen.toNat = (s.headerField 4).toNat := by
  obtain ⟨h16, ⟨-, htable⟩, -⟩ := State.headerOk_ranges h
  have htlen : s.headed.tlen = (s.headerField 4).setWidth 8 :=
    (State.takeHeader_tlen ..).trans (congrArg (BitVec.setWidth 8) (State.hdrWord_headerBytes h16 (by decide)))
  rw [htlen, BitVec.toNat_setWidth]
  exact Nat.mod_eq_of_lt (by omega)

theorem State.headed_alphabet : s.headed.alphabet = (s.sourceBytes.drop 16).take (s.headerField 4).toNat := by
  obtain ⟨-, ⟨-, htable⟩, -, -, hcut, -⟩ := State.headerOk_ranges h
  have hlen : (Memory.readList s.inMem 16 (s.headerField 4).toNat).length = (s.headerField 4).toNat :=
    Memory.readList_length ..
  rw [State.alphabet, State.headed_tlen h, s.headed_alpha, s.drop_sourceBytes, Memory.readList_take (by omega)]
  have htake := writeFrom_take s.alpha _ (hlen.trans_le htable)
  rwa [hlen] at htake

/-- The configured width and its geometry (R275). -/
theorem State.headed_width : s.headed.cw.toNat = (s.headerField 8).toNat ∧
    s.headed.cpb.toNat = (geometry s.params (s.headerField 8).toNat).1 ∧
      s.headed.bpb.toNat = (geometry s.params (s.headerField 8).toNat).2 := by
  obtain ⟨h16, -, ⟨hw, hw7⟩, -⟩ := State.headerOk_ranges h
  have hwidth := State.hdrWord_headerBytes (pos := 8) h16 (by decide)
  rw [State.headed, State.takeHeader, show State.params { s.decodeStart with
    alpha := writeFrom s.alpha 0 (Memory.readList s.inMem 16 (s.headerField 4).toNat) } = s.params from rfl, hwidth]
  exact State.configure_toNat _ hw hw7

theorem State.headed_geared : s.headed.Geared := by
  obtain ⟨-, ⟨-, htable⟩, ⟨hw, -⟩, -, hcut, -⟩ := State.headerOk_ranges h
  obtain ⟨hcw, hcpb, hbpb⟩ := State.headed_width h
  refine ⟨hcw ▸ hw, by rw [hcpb, s.headed_params, hcw], by rw [hbpb, s.headed_params, hcw], ?_⟩
  rw [State.headed_tlen h, State.headed_alphabet h, List.length_take, List.length_drop, s.sourceBytes_length]
  omega

end

end Sys2Proof.Machine
end

section
/-! DECODE (R272 to R279): the code and the output of every file, the state after a successful DECODE. -/

namespace Sys2Proof.Machine

variable {s t u : State} {io ev : List Bool} {bs : List Byte} {e : ErrKind} {k n p pos tail : Nat} {r : Res Unit}

/-! ### The data (R276, R277) -/

/-- The blocks leave the registers alone that place the tail. -/
theorem decodeData_eq (s : State) : decodeData s =
    decodeRest (s.inlen.toNat / s.cpb.toNat) (s.inlen.toNat % s.cpb.toNat) (16 + s.tlen.toNat)
      (16 + s.tlen.toNat + s.inlen.toNat / s.cpb.toNat * s.bpb.toNat) s := by
  rw [decodeData, decodeRest]
  obtain ⟨b, em, m, len, io, hframe⟩ := decodeBlocks_frame (s.inlen.toNat / s.cpb.toNat) (16 + s.tlen.toNat) s
  cases hblocks : decodeBlocks (s.inlen.toNat / s.cpb.toNat) (16 + s.tlen.toNat) s with
  | ok a s1 =>
    obtain rfl : s1 = _ := by simpa only [hblocks, Res.state_ok] using hframe
    rfl
  | raise e s1 => rfl

/-- The codes the data can call for, and a bound of what they hold. -/
theorem Spec.decodeData_code {o : IdxOrder} {w c b : Nat} {alphabet : List Byte} (n tail : Nat) (data : List Byte) :
    (Spec.decodeData o w c b alphabet n tail data).2 ∈ [0x00#8, 0x05#8, 0x07#8] ∧
      (Spec.decodeData o w c b alphabet n tail data).1.length ≤ n * c + tail := by
  induction n generalizing data with
  | zero =>
    rw [Spec.decodeData]
    refine ⟨by split_ifs <;> simp, ?_⟩
    rw [List.length_take]
    omega
  | succ n ih =>
    obtain ⟨hcode, hlen⟩ := ih (data.drop b)
    have hchars : ((Spec.blockIndices o w c (data.take b)).takeWhile fun i => decide (i < alphabet.length)).length ≤ c :=
      (List.takeWhile_prefix _).length_le.trans (by simp [Spec.blockIndices])
    rw [Spec.decodeData, Nat.succ_mul]
    simp only
    split_ifs
    · exact ⟨by simp, Nat.zero_le _⟩
    · refine ⟨by simp, ?_⟩
      rw [List.length_map]
      omega
    · refine ⟨hcode, ?_⟩
      rw [List.length_append, List.length_map]
      omega

/-- The codes a file can call for (R272). -/
theorem Spec.decodeFile_code (p : Params) (file : List Byte) :
    (Spec.decodeFile p file).2 ∈ [0x00#8, 0x05#8, 0x07#8, 0x08#8] := by
  rw [Spec.decodeFile]
  split_ifs
  · simp
  · exact List.mem_append_left [0x08#8] (Spec.decodeData_code ..).1

section
variable (h : Spec.headerOk s.params s.sourceBytes = true)
include h

/-- What the format says of the file is what it says of the data behind the header. -/
theorem State.headed_dataSpec :
    s.headed.dataSpec (s.headed.inlen.toNat / s.headed.cpb.toNat) (s.headed.inlen.toNat % s.headed.cpb.toNat)
      (16 + s.headed.tlen.toNat) = Spec.decodeFile s.params s.sourceBytes := by
  obtain ⟨hcw, hcpb, hbpb⟩ := State.headed_width h
  rw [State.dataSpec, hcw, hcpb, hbpb, State.headed_inlen h, State.headed_tlen h, State.headed_alphabet h,
    s.headed_params, s.headed_sourceBytes, Spec.decodeFile, h]
  rfl

/-- The reads of header and Alphabet and the events of the data are those of the format. -/
theorem State.headed_dataEvents :
    List.replicate (16 + (s.headerField 4).toNat) false ++
      s.headed.dataEvents (s.headed.inlen.toNat / s.headed.cpb.toNat) (s.headed.inlen.toNat % s.headed.cpb.toNat) =
        Spec.decodeEvents s.params s.sourceBytes := by
  obtain ⟨-, hcpb, hbpb⟩ := State.headed_width h
  rw [State.dataEvents, hcpb, hbpb, State.headed_inlen h, Spec.decodeEvents]
  simp only [List.append_assoc]
  rfl

theorem decodeFile_length_le : (Spec.decodeFile s.params s.sourceBytes).1.length ≤ (s.headerField 0).toNat := by
  rw [← State.headed_dataSpec h, ← State.headed_inlen h]
  conv_rhs => rw [← Nat.div_add_mod' s.headed.inlen.toNat s.headed.cpb.toNat]
  exact (Spec.decodeData_code ..).2

/-- The data of a file whose header DECODE takes. -/
theorem exists_dataRun_of_headerOk : ∃ ev r, DataRun s.headed (s.headed.inlen.toNat / s.headed.cpb.toNat)
    (s.headed.inlen.toNat % s.headed.cpb.toNat) (16 + s.headed.tlen.toNat) ev r := by
  refine (State.headed_geared h).exists_dataRun _ _ ?_
  rw [State.headed_tlen h, s.headed_srclen]
  exact (State.headerOk_ranges h).2.2.2.2.1

end

/-! ### DECODE with its close -/

/-- An end of DECODE's steps, with OUT_VALID set if it is a success. -/
def Res.marked : Res Unit → Res Unit
  | .ok _ s => .ok () (markOutput s)
  | .raise e s => .raise e s

@[simp] theorem Res.marked_code (r : Res Unit) : r.marked.code = r.code := by cases r <;> rfl

theorem Res.code_of_closes {r : Res Unit} (h : r.code = 0) : r.closes = 1 := by
  obtain ⟨s, rfl⟩ := Res.code_eq_zero_iff.mp h
  rfl

/-- What DECODE does in every state: the events of its body and its end. -/
structure DecodeRun (s : State) (ev : List Bool) (r : Res Unit) : Prop where
  closed : Closed bodyDecode s ev r
  isPrefix : ev <+: Spec.decodeEvents s.params s.sourceBytes
  code : r.code = (Spec.decodeFile s.params s.sourceBytes).2
  full : r.code = 0 → ev = Spec.decodeEvents s.params s.sourceBytes
  sink : (r.state.outMem, r.state.outlen) = sinkAfter (s.outMem, 0) (Spec.decodeFile s.params s.sourceBytes).1
  emitted : r.state.emitted = BitVec.ofNat 32 (Spec.decodeFile s.params s.sourceBytes).1.length
  has_event : 16 ≤ s.srclen.toNat → 0 < ev.length + r.closes

theorem decodeRun_of_not_headerOk (h : Spec.headerOk s.params s.sourceBytes = false) : ∃ ev r, DecodeRun s ev r := by
  have hspec : Spec.decodeFile s.params s.sourceBytes = ([], 0x08#8) := by
    rw [Spec.decodeFile, h]
    rfl
  obtain ⟨n, hn, hpos, hmain⟩ := decodeMain_traced_of_not_headerOk h
  have hclosed : Closed bodyDecode s _ _ := hmain.closed_raise (f := decodeEnd) rfl (by decide)
    fun io => decodeMain_decodeStart _
  refine ⟨_, _, hclosed, ?_, by rw [hspec]; rfl, fun h0 => absurd h0 (Res.raise_code_ne_zero _ _), by rw [hspec]; rfl,
    by rw [hspec]; rfl, fun h16 => ?_⟩
  · rw [Spec.decodeEvents, ← Nat.add_sub_cancel' (hn.trans (Nat.le_add_right 16 _)), ← List.replicate_append_replicate,
      List.append_assoc, List.append_assoc]
    exact List.prefix_append _ _
  · rw [List.length_replicate]
    exact Nat.add_pos_left (hpos h16) _

theorem State.Emits.sink (h : s.Emits bs t) : (t.outMem, t.outlen) = sinkAfter (s.outMem, s.outlen) bs := by
  rw [State.Emits] at h
  rw [h]
  rfl

theorem State.Emits.emitted (h : s.Emits bs t) : t.emitted = s.emitted + BitVec.ofNat 32 bs.length := by
  rw [State.Emits] at h
  rw [h, State.setBuf_emitted, s.emit_emitted]

theorem State.Emits.inlen (h : s.Emits bs t) : t.inlen = s.inlen := by
  rw [State.Emits] at h
  rw [h]
  rfl

theorem State.headed_outMem (s : State) : s.headed.outMem = s.outMem := rfl
theorem State.headed_outlen (s : State) : s.headed.outlen = 0 := rfl
theorem State.headed_emitted (s : State) : s.headed.emitted = 0 := rfl

/-- A file whose header DECODE takes: the events and the end of the data, and the close. -/
theorem decodeRun_of_dataRun (h : Spec.headerOk s.params s.sourceBytes = true)
    (hdata : DataRun s.headed (s.headed.inlen.toNat / s.headed.cpb.toNat) (s.headed.inlen.toNat % s.headed.cpb.toNat)
      (16 + s.headed.tlen.toNat) ev r) :
    DecodeRun s (List.replicate (16 + (s.headerField 4).toNat) false ++ ev) r.marked := by
  obtain ⟨htraced, hcode, hemits, hprefix, hfull, hlength, -, -⟩ := hdata
  rw [State.headed_dataSpec h] at hcode hemits hlength
  have hmain := decodeMain_traced_of_headerOk h (htraced.of_eq (fun io => decodeData_eq (s.headed.withIo io)) rfl)
  have hsink := hemits.sink
  have hemitted := hemits.emitted
  rw [s.headed_outMem, s.headed_outlen] at hsink
  rw [s.headed_emitted, zero_add] at hemitted
  have hpos : 0 < (List.replicate (16 + (s.headerField 4).toNat) false ++ ev).length := by
    rw [List.length_append, List.length_replicate]
    omega
  have hclosed : Closed bodyDecode s (List.replicate (16 + (s.headerField 4).toNat) false ++ ev) r.marked := by
    cases r with
    | ok a t =>
      have hcount : t.emitted = t.inlen := by
        rw [show t.inlen = _ from hemits.inlen, show t.emitted = _ from hemitted, hlength rfl, Nat.div_add_mod',
          BitVec.ofNat_toNat, BitVec.setWidth_eq]
      exact hmain.closed (f := decodeEnd) rfl (fun io => if_neg (not_not.mpr hcount))
        fun io => decodeMain_decodeStart _
    | raise e t =>
      refine hmain.closed_raise (f := decodeEnd) rfl ?_ fun io => decodeMain_decodeStart _
      rintro rfl
      have hlisted := Spec.decodeFile_code s.params s.sourceBytes
      rw [← hcode] at hlisted
      exact absurd (show ErrKind.ioFailure.code ∈ _ from hlisted) (by decide)
  refine ⟨hclosed, ?_, by rw [Res.marked_code, hcode], fun h0 => ?_, ?_, ?_, fun _ => Nat.add_pos_left hpos _⟩
  · rw [← State.headed_dataEvents h]
    exact (List.prefix_append_right_inj _).mpr hprefix
  · rw [Res.marked_code] at h0
    rw [hfull h0, State.headed_dataEvents h]
  · cases r <;> exact hsink
  · cases r <;> exact hemitted

theorem exists_decodeRun (s : State) : ∃ ev r, DecodeRun s ev r := by
  cases h : Spec.headerOk s.params s.sourceBytes with
  | false => exact decodeRun_of_not_headerOk h
  | true =>
    obtain ⟨ev, r, hdata⟩ := exists_dataRun_of_headerOk h
    exact ⟨_, _, decodeRun_of_dataRun h hdata⟩

theorem Spec.decodeFile_length_lt (s : State) : (Spec.decodeFile s.params s.sourceBytes).1.length < 2 ^ 32 := by
  cases h : Spec.headerOk s.params s.sourceBytes with
  | false =>
    rw [Spec.decodeFile, h]
    exact Nat.two_pow_pos 32
  | true => exact (decodeFile_length_le h).trans_lt (s.headerField 0).isLt

/-- The codes of DECODE: those a file can call for, and IoFailure. -/
theorem bodyDecode_code (s : State) : (bodyDecode s).code ∈ [0x00#8, 0x05#8, 0x07#8, 0x08#8, 0x06#8] := by
  obtain ⟨ev, r, hrun⟩ := exists_decodeRun s
  rcases hrun.closed.code_cases with hcode | hcode
  · rw [hcode, hrun.code]
    exact List.mem_append_left [0x06#8] (Spec.decodeFile_code ..)
  · rw [hcode]
    decide

/-- The output is what was appended from OUTLEN 0 on. -/
theorem State.outputBytes_of_sink {m : Memory} (h : (s.outMem, s.outlen) = sinkAfter (m, 0) bs) (hwf : m.wf = true)
    (hlen : bs.length < 2 ^ 32) : s.outputBytes = bs ∧ s.outlen = BitVec.ofNat 32 bs.length :=
  Writes.output (s := { s with outMem := m, outlen := 0 }) (t := s) ⟨rfl, h⟩ rfl hwf hlen

/-- Settles O49: the file's end and what it holds up to there, appended from OUTLEN 0 on. -/
theorem decodeFollowsTheFormat : Obligations.DecodeFollowsTheFormat := by
  intro s hwf hio
  obtain ⟨ev, r, hrun⟩ := exists_decodeRun (prologue s)
  have hexec := exec_of_closed (i := .decode) hrun.closed hio
  have hlen := Spec.decodeFile_length_lt s
  refine ⟨_, hexec, hrun.code, (State.outputBytes_of_sink hrun.sink hwf hlen).1, ?_,
    (exec_outValid (.inr rfl) hexec).trans (congrArg (· == 0) hrun.code)⟩
  exact (congrArg BitVec.toNat hrun.emitted).trans (Nat.mod_eq_of_lt hlen)

end Sys2Proof.Machine
end

section
/-! DECODE completes (R272 to R278): every register and memory after it. -/

namespace Sys2Proof.Machine

variable {s t u : State} {bs : List Byte} {k n : Nat} {r : Res Unit}

/-- What appends and BUF do not touch is kept. -/
theorem State.Emits.keeps {α : Type} (h : s.Emits bs t) (f : State → α)
    (hf : ∀ (u : State) (cs : List Byte) (b : Vector Byte 8), f ((u.emit cs).setBuf b) = f u) : f t = f s := by
  rw [State.Emits] at h
  rw [h, hf]

/-- Positions of OUT past the bytes appended from OUTLEN 0 on stay. -/
theorem Memory.read_outside_of_sink {m : Memory} {pos : Nat} (h : (s.outMem, s.outlen) = sinkAfter (m, 0) bs)
    (hlen : bs.length < 2 ^ 32) (hpos : bs.length ≤ pos) : Memory.read s.outMem pos = Memory.read m pos :=
  Writes.read_outside (s := { s with outMem := m, outlen := 0 }) (t := s) ⟨rfl, h⟩ rfl hlen hpos

/-- DECODE reads header, Alphabet, blocks and tail, and appends the text (R272). -/
theorem Spec.decodeEvents_length (p : Params) (file : List Byte) :
    (Spec.decodeEvents p file).length =
      16 + (Spec.headerField p.hdrEndian file 4).toNat +
        (Spec.headerField p.hdrEndian file 0).toNat /
          (geometry p (Spec.headerField p.hdrEndian file 8).toNat).1 *
            (geometry p (Spec.headerField p.hdrEndian file 8).toNat).2 +
        (Spec.headerField p.hdrEndian file 0).toNat % (geometry p (Spec.headerField p.hdrEndian file 8).toNat).1 +
        (Spec.headerField p.hdrEndian file 0).toNat := by
  obtain ⟨g, hg⟩ : ∃ g, g = geometry p (Spec.headerField p.hdrEndian file 8).toNat := ⟨_, rfl⟩
  obtain ⟨len, hlen⟩ : ∃ len, len = (Spec.headerField p.hdrEndian file 0).toNat := ⟨_, rfl⟩
  have hblocks := blockEvents_length (len / g.1) g.2 g.1
  have htail := Nat.div_add_mod' len g.1
  rw [blockEvents, Nat.mul_add] at hblocks
  simp only [Spec.decodeEvents, ← hg, ← hlen, List.length_append, hblocks, Spec.tailEvents_length,
    List.length_replicate]
  omega

theorem State.headed_status (s : State) : s.headed.status =
    { s.status with outValid := false, freqValid := false, treeValid := false, alphaValid := true, cfgValid := true } :=
  rfl

theorem State.headed_buf (s : State) : s.headed.buf = s.buf := rfl
theorem State.headed_draws (s : State) : s.headed.draws = s.draws := rfl

theorem State.headed_alpha_outside (s : State) (hk : (s.headerField 4).toNat ≤ k) :
    s.headed.alpha[k]? = s.alpha[k]? := by
  rw [s.headed_alpha]
  exact writeFrom_outside _ _ _ (.inr (by rw [Memory.readList_length]; omega))

/-- A DECODE whose file calls for no error: its steps and its end. -/
theorem decodeRun_of_success (h : Spec.headerOk s.params s.sourceBytes = true)
    (h0 : (Spec.decodeFile s.params s.sourceBytes).2 = 0) :
    ∃ t, DecodeRun s (Spec.decodeEvents s.params s.sourceBytes) (.ok () (markOutput t)) ∧
      s.headed.Emits (Spec.decodeFile s.params s.sourceBytes).1 t ∧
      (Spec.decodeFile s.params s.sourceBytes).1.length = (s.headerField 0).toNat ∧
      ((s.headerField 0).toNat / s.headed.cpb.toNat = 0 → t.buf = s.buf) ∧
      (0 < (s.headerField 0).toNat / s.headed.cpb.toNat → t.buf.toList =
        (s.sourceBytes.drop (16 + (s.headerField 4).toNat +
          ((s.headerField 0).toNat / s.headed.cpb.toNat - 1) * s.headed.bpb.toNat)).take s.headed.bpb.toNat ++
            List.replicate (8 - s.headed.bpb.toNat) 0) := by
  obtain ⟨ev, r, hdata⟩ := exists_dataRun_of_headerOk h
  have hrun := decodeRun_of_dataRun h hdata
  have hcode : r.code = 0 := (Res.marked_code r).symm.trans (hrun.code.trans h0)
  have hfull := hrun.full ((Res.marked_code r).trans hcode)
  obtain ⟨-, -, hemits, -, -, hlength, hzero, hlast⟩ := hdata
  obtain ⟨t, rfl⟩ := Res.code_eq_zero_iff.mp hcode
  rw [State.headed_dataSpec h] at hemits hlength
  have hlast := hlast rfl
  rw [State.headed_inlen h, s.headed_buf] at hzero
  rw [State.headed_inlen h, s.headed_sourceBytes, State.headed_tlen h] at hlast
  refine ⟨t, hfull ▸ hrun, hemits, ?_, hzero, hlast⟩
  rw [hlength rfl, Nat.div_add_mod', State.headed_inlen h]

/-- Settles O50: the header leaves its fields in the registers, the data their characters in OUT. -/
theorem decodeCompletes : Obligations.DecodeCompletes := by
  intro s hwf hio h h0 file len table w g text
  obtain ⟨t, hrun, hemits, hlength, hzero, hlast⟩ := decodeRun_of_success (s := prologue s) h h0
  have hexec := exec_of_closed (i := .decode) hrun.closed hio
  obtain ⟨v, hv⟩ : ∃ v, v = ((markOutput t).withIo
    (s.ioOutcomes.drop ((Spec.decodeEvents s.params s.sourceBytes).length + 1))).finish 0 := ⟨_, rfl⟩
  obtain ⟨hcw, hcpb, hbpb⟩ := State.headed_width (s := prologue s) h
  have hlt := Spec.decodeFile_length_lt s
  have hsink : (v.outMem, v.outlen) = sinkAfter (s.outMem, 0) text := hv ▸ hrun.sink
  have hemitted : v.emitted = BitVec.ofNat 32 text.length := hv ▸ hrun.emitted
  have hlen : BitVec.ofNat 32 text.length = len := by
    rw [show text.length = len.toNat from hlength, BitVec.ofNat_toNat, BitVec.setWidth_eq]
  obtain ⟨hbytes, houtlen⟩ := State.outputBytes_of_sink hsink hwf hlt
  have hstatus : t.status = (prologue s).headed.status := hemits.keeps State.status fun _ _ _ => rfl
  have hvstatus : v.status = { t.status with busy := false, done := true, err := false, outValid := true } := by
    rw [hv]
    simp [State.finish, Status.finish, State.withIo, markOutput]
  rw [hstatus, State.headed_status] at hvstatus
  have written := commandsWriteOnlyTheirState .decode s v (hv ▸ hexec)
  obtain ⟨⟨hsrclen, hinMem, hparams, hhost, hread⟩, hresult, -, -, -, -, htotout, htree, -, hfreq, -,
    htables, -⟩ := written
  obtain ⟨hleafcount, hroot, hncount⟩ := htree (by decide)
  obtain ⟨hnode, hleaf⟩ := htables (by decide)
  have keeps {α : Type} (f : State → α)
      (hf : ∀ (u : State) (cs : List Byte) (b : Vector Byte 8), f ((u.emit cs).setBuf b) = f u)
      (hv' : f v = f t) : f v = f (prologue s).headed := hv'.trans (hemits.keeps f hf)
  have htlen : v.tlen = (prologue s).headed.tlen := keeps State.tlen (fun _ _ _ => rfl) (by rw [hv]; rfl)
  have halphabet : v.alphabet = (prologue s).headed.alphabet :=
    keeps State.alphabet (fun u cs _ => u.emit_alphabet cs) (by rw [hv]; rfl)
  have halpha : v.alpha = (prologue s).headed.alpha := keeps State.alpha (fun _ _ _ => rfl) (by rw [hv]; rfl)
  refine ⟨v, hv ▸ hexec, by rw [hv]; rfl, hvstatus, hbytes, hlength, houtlen.trans hlen, hemitted.trans hlen, ?_,
    fun pos hpos => Memory.read_outside_of_sink hsink hlt hpos, ?_, ?_, fun k hk => ?_, ?_, ?_, ?_, ?_, fun hn => ?_,
    fun hn => ?_, ?_, hfreq (by decide), hnode, hleaf, hroot, hncount, hleafcount, htotout (by decide),
    hresult (by decide), hsrclen, hinMem, hparams, hhost, hread, ?_⟩
  · exact (keeps State.inlen (fun _ _ _ => rfl) (by rw [hv]; rfl)).trans (State.headed_inlen (s := prologue s) h)
  · rw [htlen]
    exact State.headed_tlen (s := prologue s) h
  · rw [halphabet]
    exact State.headed_alphabet (s := prologue s) h
  · rw [halpha]
    exact (prologue s).headed_alpha_outside hk
  · exact (keeps State.odl (fun _ _ _ => rfl) (by rw [hv]; rfl)).trans (State.headed_odl (s := prologue s) h)
  · rw [keeps State.cw (fun _ _ _ => rfl) (by rw [hv]; rfl)]
    exact hcw
  · rw [keeps State.cpb (fun _ _ _ => rfl) (by rw [hv]; rfl)]
    exact hcpb
  · rw [keeps State.bpb (fun _ _ _ => rfl) (by rw [hv]; rfl)]
    exact hbpb
  · rw [hv]
    exact hzero (by rw [hcpb]; exact hn)
  · rw [hcpb, hbpb] at hlast
    rw [hv]
    exact hlast hn
  · rw [hv, Spec.decodeEvents_length]
    rfl
  · exact (keeps State.draws (fun _ _ _ => rfl) (by rw [hv]; rfl)).trans (prologue s).headed_draws

end Sys2Proof.Machine
end

section
/-! How commands end: the codes of each command (R301), and I/O failures (R90, R312). -/

namespace Sys2Proof.Machine

variable {s t u : State} {io ev : List Bool} {e : ErrKind} {k n : Nat} {i : Instr} {r : Res Unit} {rest : List Bool}

/-! ### The codes of SCAN -/

/-- What SCAN does in every state: reads alone, and an end that its source calls for. -/
theorem exists_scanRun (s : State) : ∃ ev r, Traced bodyScan s ev r ∧ r.code ∈ [0x00#8, 0x01#8, 0x0A#8] := by
  by_cases hlong : 2147483647 < s.srclen.toNat
  · exact ⟨[], .raise .inputTooLong s, .of_none (fun io => if_pos hlong) rfl,
      List.mem_cons_of_mem _ (List.mem_cons_of_mem _ List.mem_cons_self)⟩
  · have hlen := Nat.le_of_not_lt hlong
    by_cases hascii : isAscii s.sourceBytes = true
    · exact ⟨_, _, bodyScan_traced hlen hascii, List.mem_cons_self⟩
    · obtain ⟨k, hk, hfirst, hbyte⟩ := exists_first_nonAscii hascii
      have hbyte' : 127 < (Memory.read s.inMem k).toNat := by
        simpa [State.sourceBytes, Memory.getElem_readList] using hbyte
      rw [s.sourceBytes_length] at hk
      exact ⟨_, _, bodyScan_traced_nonAscii hlen hk hfirst hbyte', List.mem_cons_of_mem _ List.mem_cons_self⟩

/-- The codes of SCAN: the one its source calls for, or IoFailure. -/
theorem bodyScan_code (s : State) : (bodyScan s).code ∈ [0x00#8, 0x01#8, 0x0A#8, 0x06#8] := by
  obtain ⟨ev, r, hrun, hcode⟩ := exists_scanRun s
  rcases hrun.end_cases s.ioOutcomes with ⟨io, hio⟩ | ⟨u, hu⟩
  · rw [← s.withIo_self, hio, Res.withIo_code]
    exact List.mem_append_left [0x06#8] hcode
  · rw [← s.withIo_self, hu]
    exact List.mem_append_right [0x00#8, 0x01#8, 0x0A#8] (List.mem_singleton.mpr rfl)

/-! ### The codes of the other commands -/

theorem bodyDedup_code (s : State) : (bodyDedup s).code ∈ [0x00#8, 0x09#8, 0x12#8] := by
  rw [bodyDedup]
  dsimp only
  split_ifs <;> simp [Res.code, ErrKind.code]

theorem bodyTree_code (s : State) : (bodyTree s).code ∈ [0x00#8, 0x02#8, 0x12#8] := by
  rw [bodyTree]
  dsimp only
  split_ifs <;> simp [Res.code, ErrKind.code]

theorem bodyLookup_code (a : Byte) (s : State) : (bodyLookup a s).code ∈ [0x00#8, 0x04#8, 0x12#8] := by
  rw [bodyLookup]
  split_ifs
  · simp [Res.code, ErrKind.code]
  · cases lookupIndex s.alphabet a <;> simp [Res.code, ErrKind.code]

theorem bodyPutidx_code (a b : Byte) (s : State) : (bodyPutidx a b s).code ∈ [0x00#8, 0x11#8, 0x12#8] := by
  rw [bodyPutidx]
  split_ifs <;> simp [Res.code, ErrKind.code]

theorem bodyGetidx_code (a : Byte) (s : State) : (bodyGetidx a s).code ∈ [0x00#8, 0x11#8, 0x12#8] := by
  rw [bodyGetidx]
  split_ifs <;> simp [Res.code, ErrKind.code]

/-- A body that tests its operands before it does anything else. -/
theorem code_of_operand_test {b : Bool} {t : State} :
    (if b then Res.raise .badOperand s else .ok () t).code ∈ [0x00#8, 0x11#8] := by
  cases b
  · exact List.mem_cons_self
  · exact List.mem_cons_of_mem _ List.mem_cons_self

/-- The codes a command can end with (R301). -/
def endCodes : Mnemonic → List (BitVec 8)
  | .nop | .clear | .bufclr => [0x00#8]
  | .getbit | .setbit | .width | .geom | .setcw => [0x00#8, 0x11#8]
  | .putidx | .getidx => [0x00#8, 0x11#8, 0x12#8]
  | .scan => [0x00#8, 0x01#8, 0x0A#8, 0x06#8]
  | .dedup => [0x00#8, 0x09#8, 0x12#8]
  | .lookup => [0x00#8, 0x04#8, 0x12#8]
  | .tree => [0x00#8, 0x02#8, 0x12#8]
  | .encode => [0x00#8, 0x01#8, 0x03#8, 0x09#8, 0x0A#8, 0x06#8]
  | .decode => [0x00#8, 0x05#8, 0x07#8, 0x08#8, 0x06#8]

theorem body_code_mem (i : Instr) (s : State) : (i.body s).code ∈ endCodes i.mnemonic := by
  cases i with
  | nop => exact List.mem_cons_self
  | clear => exact List.mem_cons_self
  | bufclr => exact List.mem_cons_self
  | getbit a => exact code_of_operand_test
  | setbit a b => exact code_of_operand_test
  | width a => exact code_of_operand_test
  | geom a => exact code_of_operand_test
  | setcw a => exact code_of_operand_test
  | putidx a b => exact bodyPutidx_code a b s
  | getidx a => exact bodyGetidx_code a s
  | scan => exact bodyScan_code s
  | dedup => exact bodyDedup_code s
  | lookup a => exact bodyLookup_code a s
  | tree => exact bodyTree_code s
  | encode => exact bodyEncode_code s
  | decode => exact bodyDecode_code s

theorem exec_errcode (h : exec i s = .next t) : t.errcode = (i.body (prologue s)).code := by
  rw [← exec_eq_next_iff.mp h, epilogue_errcode]

/-- Settles O19: the codes of each body, those of SCAN, ENCODE and DECODE by their events. -/
theorem errorCodesByCommand : Obligations.ErrorCodesByCommand := by
  intro i s t h
  have hcode := body_code_mem i (prologue s)
  rw [← exec_errcode h] at hcode
  generalize i.mnemonic = m at hcode
  revert hcode
  generalize t.errcode = c
  revert c
  cases m <;> decide

/-! ### A failed event against the run without one (R90, R312) -/

/-- The host fails event `k` and none before it. -/
def failAt (k : Nat) (rest : List Bool) : List Bool := List.replicate k false ++ true :: rest

theorem failAt_ioOk (h : n ≤ k) (rest : List Bool) : IoOk (failAt k rest) n := ioOk_replicate n k _ h

theorem failAt_getElem? (k : Nat) (rest : List Bool) : (failAt k rest)[k]? = some true := by
  rw [failAt, List.getElem?_append_right (by simp)]
  simp

theorem failAt_drop (k : Nat) (rest : List Bool) : (failAt k rest).drop (k + 1) = rest := by
  rw [failAt, ← List.drop_drop, List.drop_left' (List.length_replicate ..)]
  rfl

theorem replicate_ioOk (m n : Nat) : IoOk (List.replicate m false) n :=
  State.noIoFailure.ioOk (s := State.reset.withIo (List.replicate m false)) (by simp [State.noIoFailure]) n

/-- The events of a run that leaves one of `n + 1` outcomes. -/
theorem eq_of_drop_replicate {m : Nat} (h : (List.replicate (n + 1) false).drop m = [false]) : n = m := by
  have hlen := congrArg List.length h
  rw [List.length_drop, List.length_replicate, List.length_singleton] at hlen
  omega

theorem exec_withIo (i : Instr) (s : State) (io : List Bool) :
    exec i { s with ioOutcomes := io } = .next (epilogue (i.body ((prologue s).withIo io))) := exec_eq i _

theorem epilogue_ioOutcomes (r : Res Unit) (io : List Bool) : (epilogue (r.withIo io)).ioOutcomes = io := by
  cases r <;> rfl

/-- A body that runs into a failure ends with IoFailure and the OUTLEN it had. -/
theorem exec_of_ioFailure (h : i.body ((prologue s).withIo io) = .raise .ioFailure u) :
    exec i { s with ioOutcomes := io } = .next (u.finish 0x06#8) := by
  rw [exec_withIo, h]
  rfl

/-- The appends among the first events of a list are those of a longer one. -/
theorem appendsIn_of_prefix {full : List Bool} (h : ev <+: full) (hk : k ≤ ev.length) :
    Spec.appendsIn full k = Spec.appendsIn ev k := by
  obtain ⟨later, rfl⟩ := h
  rw [Spec.appendsIn, Spec.appendsIn, List.take_append_of_le_length hk]

theorem appendsIn_le_count (ev : List Bool) (k : Nat) : Spec.appendsIn ev k ≤ ev.count true :=
  (List.take_sublist k ev).count_le true

section
variable (hclosed : Closed i.body (prologue s) ev r) (hrun : Spec.RunsWith i s n t)
include hclosed hrun

/-- The run in which no event fails makes the events of the body and a close. -/
theorem Closed.of_runsWith : n = ev.length + 1 ∧ t = epilogue (r.withIo [false]) := by
  obtain ⟨hexec, hio⟩ := hrun
  rw [exec_withIo, hclosed.runs _ (replicate_ioOk _ _), Host.Outcome.next.injEq] at hexec
  have hdrop := hio
  rw [← hexec, epilogue_ioOutcomes] at hdrop
  exact ⟨eq_of_drop_replicate hdrop, by rw [← hexec, hdrop]⟩

/-- A failed event but the close of an error exit ends the body with IoFailure (R90). -/
theorem Closed.fails_at (hk : k < n) (hend : t.errcode = 0 ∨ k + 1 < n) (rest : List Bool)
    (hcount : ev.count true < 2 ^ 32) :
    ∃ u, exec i { s with ioOutcomes := failAt k rest } = .next u ∧ u.errcode = 0x06#8 ∧
      u.outlen.toNat = Spec.appendsIn ev k := by
  obtain ⟨rfl, rfl⟩ := hclosed.of_runsWith hrun
  have hlt : k < ev.length + r.closes := by
    rcases hend with h0 | hlt
    · rw [epilogue_errcode, Res.withIo_code] at h0
      rwa [Res.code_of_closes h0]
    · omega
  obtain ⟨u, hu, houtlen⟩ := hclosed.fails (failAt k rest) k hlt (failAt_ioOk (Nat.le_refl k) rest)
    (failAt_getElem? k rest)
  refine ⟨_, exec_of_ioFailure hu, rfl, ?_⟩
  have hle := appendsIn_le_count ev k
  exact (congrArg BitVec.toNat houtlen).trans (Nat.mod_eq_of_lt (by omega))

/-- The close of an error exit may fail: the end stays (R270, R278). -/
theorem Closed.error_exit (herror : t.errcode ≠ 0) (rest : List Bool) :
    0 < n ∧ exec i { s with ioOutcomes := failAt (n - 1) rest } = .next { t with ioOutcomes := rest } := by
  obtain ⟨rfl, rfl⟩ := hclosed.of_runsWith hrun
  refine ⟨Nat.succ_pos _, ?_⟩
  cases r with
  | ok a u => exact absurd rfl herror
  | raise e u =>
    have hbody := hclosed.runs (failAt ev.length rest) (failAt_ioOk (Nat.le_refl ev.length) rest)
    rw [failAt_drop] at hbody
    rw [exec_withIo, Nat.add_sub_cancel, hbody]
    rfl

end

/-- When the first event fails nothing was appended. -/
theorem Closed.first_fails (hclosed : Closed i.body (prologue s) ev r) (hpos : 0 < ev.length + r.closes)
    (hfirst : s.ioOutcomes.head? = some true) :
    ∃ t, exec i s = .next t ∧ t.errcode = 0x06#8 ∧ t.outlen = 0 := by
  obtain ⟨u, hu, houtlen⟩ := hclosed.fails s.ioOutcomes 0 hpos (.zero _) (List.head?_eq_getElem? .. ▸ hfirst)
  exact ⟨_, exec_of_ioFailure (s := s) hu, rfl, houtlen⟩

/-- SCAN ends with IoFailure when one of its reads fails (R211). -/
theorem exec_scan_of_failure (hrun : Spec.RunsWith .scan s n t) (hk : k < n) (rest : List Bool) :
    ∃ u, exec .scan { s with ioOutcomes := failAt k rest } = .next u ∧ u.errcode = 0x06#8 := by
  obtain ⟨ev, r, htraced, -⟩ := exists_scanRun (prologue s)
  obtain ⟨hexec, hio⟩ := hrun
  have hbody := htraced.runs _ (replicate_ioOk (n + 1) ev.length)
  rw [exec_withIo, show Instr.scan.body _ = _ from hbody, Host.Outcome.next.injEq] at hexec
  rw [← hexec, epilogue_ioOutcomes] at hio
  obtain rfl := eq_of_drop_replicate hio
  obtain ⟨u, hu, -⟩ := htraced.fails (failAt k rest) k hk (failAt_ioOk (Nat.le_refl k) rest) (failAt_getElem? k rest)
  exact ⟨_, exec_of_ioFailure (i := .scan) hu, rfl⟩

/-- SCAN does not end with IoFailure when the host fails no event. -/
theorem bodyScan_code_of_noIoFailure (hio : s.noIoFailure = true) : (bodyScan s).code ≠ 0x06#8 := by
  obtain ⟨ev, r, htraced, hcode⟩ := exists_scanRun s
  have hbody := htraced.runs s.ioOutcomes (State.noIoFailure.ioOk hio _)
  rw [s.withIo_self] at hbody
  rw [hbody, Res.withIo_code]
  intro h
  rw [h] at hcode
  exact absurd hcode (by decide)

theorem Closed.code_of_noIoFailure {body : State → Res Unit} (hclosed : Closed body s ev r)
    (hio : s.noIoFailure = true) : (body s).code ≠ 0x06#8 := by
  have hbody := hclosed.runs s.ioOutcomes (State.noIoFailure.ioOk hio _)
  rw [s.withIo_self] at hbody
  rw [hbody, Res.withIo_code]
  exact hclosed.no_failure

/-- Without a failed event no command ends with IoFailure (R90). -/
theorem body_code_of_noIoFailure (i : Instr) (hio : s.noIoFailure = true) : (i.body s).code ≠ 0x06#8 := by
  have hmem := body_code_mem i s
  cases i with
  | scan => exact bodyScan_code_of_noIoFailure hio
  | encode =>
    obtain ⟨ev, r, hrun⟩ := exists_encodeRun s
    exact hrun.closed.code_of_noIoFailure hio
  | decode =>
    obtain ⟨ev, r, hrun⟩ := exists_decodeRun s
    exact hrun.closed.code_of_noIoFailure hio
  | _ => exact fun h => absurd (h ▸ hmem) (by simp [Instr.mnemonic, endCodes])

/-- DECODE appends no more than the text's bytes (R272). -/
theorem Spec.decodeEvents_count_lt (p : Params) (file : List Byte) : (Spec.decodeEvents p file).count true < 2 ^ 32 := by
  obtain ⟨g, hg⟩ : ∃ g, g = geometry p (Spec.headerField p.hdrEndian file 8).toNat := ⟨_, rfl⟩
  obtain ⟨len, hlen⟩ : ∃ len, len = Spec.headerField p.hdrEndian file 0 := ⟨_, rfl⟩
  have hblocks := blockEvents_count (len.toNat / g.1) g.2 g.1
  have htail := Nat.div_add_mod' len.toNat g.1
  have hlt := len.isLt
  rw [blockEvents] at hblocks
  simp only [Spec.decodeEvents, ← hg, ← hlen, List.count_append, hblocks, Spec.tailEvents_count, List.count_replicate]
  simp only [show (false == true) = false from rfl, Bool.false_eq_true, if_false]
  omega

theorem DecodeRun.count_lt (h : DecodeRun s ev r) : ev.count true < 2 ^ 32 :=
  (h.isPrefix.sublist.count_le true).trans_lt (Spec.decodeEvents_count_lt ..)

/-- Settles O53: the events of SCAN, ENCODE and DECODE, with the one that fails. -/
theorem ioFailureEndsTheCommand : Obligations.IoFailureEndsTheCommand := by
  refine ⟨fun s t n k rest hrun hk => exec_scan_of_failure hrun hk rest, fun s t n k rest hrun hk hend => ?_,
    fun s t n k rest hrun hk hend => ?_, fun i s t n rest hi hrun herror => ?_, fun i s t h hio => ?_,
    fun i s t hi h hcode => ?_, fun s hfirst => ⟨fun hpos hle => ?_, fun h16 => ?_⟩⟩
  · obtain ⟨ev, r, hencode⟩ := exists_encodeRun (prologue s)
    obtain ⟨u, hexec, hcode, houtlen⟩ := hencode.closed.fails_at (i := .encode) hrun hk hend rest hencode.appends_lt
    obtain ⟨rfl, -⟩ := Closed.of_runsWith (i := .encode) hencode.closed hrun
    exact ⟨u, hexec, hcode, houtlen.trans (appendsIn_of_prefix hencode.isPrefix (Nat.le_of_lt_succ hk)).symm⟩
  · obtain ⟨ev, r, hdecode⟩ := exists_decodeRun (prologue s)
    obtain ⟨u, hexec, hcode, houtlen⟩ := hdecode.closed.fails_at (i := .decode) hrun hk hend rest hdecode.count_lt
    obtain ⟨rfl, -⟩ := Closed.of_runsWith (i := .decode) hdecode.closed hrun
    exact ⟨u, hexec, hcode, houtlen.trans (appendsIn_of_prefix hdecode.isPrefix (Nat.le_of_lt_succ hk)).symm⟩
  · rcases hi with rfl | rfl
    · obtain ⟨ev, r, hencode⟩ := exists_encodeRun (prologue s)
      exact Closed.error_exit (i := .encode) hencode.closed hrun herror rest
    · obtain ⟨ev, r, hdecode⟩ := exists_decodeRun (prologue s)
      exact Closed.error_exit (i := .decode) hdecode.closed hrun herror rest
  · rw [exec_errcode h]
    exact body_code_of_noIoFailure i hio
  · rw [exec_outValid hi h, hcode]
    rfl
  · obtain ⟨ev, r, hencode⟩ := exists_encodeRun (prologue s)
    exact Closed.first_fails (i := .encode) hencode.closed (hencode.has_event hpos hle) hfirst
  · obtain ⟨ev, r, hdecode⟩ := exists_decodeRun (prologue s)
    exact Closed.first_fails (i := .decode) hdecode.closed (hdecode.has_event h16) hfirst

end Sys2Proof.Machine
end
